-- ==== Sys2Proof/Word.lean ====
section
/-! DEFINITION. The word types of WSPWM: a bus or waveform word has 32 bits (`WORDW`, rule R7), a CMD or
UOP record has 64 (rule R90). Values are numbers with bit 0 the least significant bit (rule R9); they are
never bytes (rule R65). -/

namespace Sys2Proof

/-- `WORDW = 32`: a waveform word, a register value, a response word (rules R7, R62, R97). -/
abbrev Word := BitVec 32

/-- A command word or a bus-event record (rule R90). -/
abbrev Record := BitVec 64

end Sys2Proof
end

