-- ==== Sys2Proof/Config.lean ====
section
/-! DEFINITION. What one WSPWM implementation fixes: the names of the windows and of the device registers
(rules R37, R60), the register layout `REGMAP` (rules R101 to R105), the parameters of rule R7, and the
free values. `Params` is plain data and is a constant field of `State`, so that every statement holds for
every choice of the OPEN parameters; the free values are constants without a body. -/

namespace Sys2Proof

/-- The three register windows (rule R60); record codes 1, 2, 3 (rule R100). -/
inductive Window where
  | gpio | pwm | clk
  deriving DecidableEq, Repr

/-- The two intervals a `WAIT` can name (rule R126); record codes 1, 2 (rule R100). -/
inductive Interval where
  | settle | fifoGap
  deriving DecidableEq, Repr

/-- The eight device registers the controller programs, by their symbolic names (rule R37). -/
inductive Reg where
  | pwmctl | pwmdiv                  -- window CLK
  | ctl | sta | dmac | rng | fifo    -- window PWM
  | fsel                             -- window GPIO
  deriving DecidableEq, Repr

/-- A Color: three 8-bit channels, no alpha (rule R21). -/
structure Color where
  r : BitVec 8
  g : BitVec 8
  b : BitVec 8
  deriving DecidableEq, Repr, Inhabited

/-- The numeric register layout `REGMAP` (rules R101 to R105). `index*` are word indices in a window,
`*Pos` bit positions, `*W` field widths. The GPIO items are those of the one pin `PWM_PIN`
(`fsel_index(PWM_PIN)`, `fsel_shift(PWM_PIN)`, rule R105). -/
structure RegMap where
  baseGpio : Nat
  basePwm : Nat
  baseClk : Nat
  blockSize : Nat
  indexPwmctl : Nat
  indexPwmdiv : Nat
  indexCtl : Nat
  indexSta : Nat
  indexDmac : Nat
  indexRng : Nat
  indexFifo : Nat
  indexFsel : Nat
  clkConst : Word
  killPos : Nat
  enablePos : Nat
  srcPos : Nat
  srcW : Nat
  diviPos : Nat
  diviW : Nat
  divfPos : Nat
  divfW : Nat
  enPos : Nat
  modePos : Nat
  usefPos : Nat
  rptlPos : Nat
  polaPos : Nat
  sbitPos : Nat
  clrfPos : Nat
  errClearAll : Word
  dmaEnablePos : Nat
  fselW : Nat
  fselShift : Nat
  altPwm : Nat
  deriving DecidableEq, Repr

/-- The parameters of a WSPWM block (rule R7). The two tables hold the values of `NAMED_COLOR` and
`LUM_SCALE` that a configuration makes known; for an argument a table does not list the value is free
(`Config.namedColor`, `Config.lumScale`; rules R177, R178). The three intervals are numbers of an
unnamed time unit: no step reads them (rule R126, rule R319). -/
structure Params where
  capacity : Nat
  divInt : Nat
  divFrac16 : Nat
  clkSrc : Nat
  tSettle : Nat
  tFifoGap : Nat
  tReset : Nat
  qdepth : Nat
  regmap : RegMap
  namedColors : List (BitVec 8 × Option Color)
  lumScales : List ((Color × BitVec 16) × Color)
  deriving DecidableEq, Repr

namespace Config

/-- `PWM_PIN = 18`, fixed by the source (rule R7). -/
def pwmPin : Nat := 18

/-- `NAMED_COLOR` where the configuration makes no value known: an uninterpreted function (rule R177,
`93_implementation_defined.md` U14). -/
opaque namedColor : BitVec 8 → Option Color

/-- `LUM_SCALE` where the configuration makes no value known: an uninterpreted function (rule R178,
`93_implementation_defined.md` U14). -/
opaque lumScale : Color → BitVec 16 → Color

/-- The environment's answer to the `k`-th micro-operation, a `CHOPEN` or a `MAP`, when no answer stands in
the input list: grant (`true`) or deny, unconstrained (rule R120, `93_implementation_defined.md` U12). -/
opaque freeGrant : Nat → Bool

/-- The value the `k`-th micro-operation, an `LD`, returns when no answer stands in the input list
(rule R75, `93_implementation_defined.md` U12). -/
opaque freeLoad : Nat → Word

/-- The pending error flags the peripheral shows where the source does not say which are set
(`93_implementation_defined.md` U8). -/
opaque freeErrFlags : Nat → Word

/-- Whether a running clock generator goes on running after a store that neither kills nor enables it, which rules
R38 and R251 leave open and no micro-program issues (log entry 30). -/
opaque freeClkRun : Nat → Bool

end Config

end Sys2Proof
end

