-- ==== Sys2Proof/Machine/RegMap.lean ====
section
/-! DEFINITION. Reading `REGMAP`: a register's window and index, the address computation of rule R64, and
the register a window and an index name. -/

namespace Sys2Proof

/-- The window a register lies in (the first column of rule R37). -/
def Reg.win : Reg → Window
  | .pwmctl | .pwmdiv => .clk
  | .ctl | .sta | .dmac | .rng | .fifo => .pwm
  | .fsel => .gpio

/-- The registers of rule R37, in its order. -/
def Reg.all : List Reg := [.pwmctl, .pwmdiv, .ctl, .sta, .dmac, .rng, .fifo, .fsel]

/-- `REGMAP.base(win)` (rule R101). -/
def RegMap.base (m : RegMap) : Window → Nat
  | .gpio => m.baseGpio
  | .pwm => m.basePwm
  | .clk => m.baseClk

/-- `REGMAP.index(win, reg)`, the register's word index inside its window (rule R101). -/
def RegMap.index (m : RegMap) : Reg → Nat
  | .pwmctl => m.indexPwmctl
  | .pwmdiv => m.indexPwmdiv
  | .ctl => m.indexCtl
  | .sta => m.indexSta
  | .dmac => m.indexDmac
  | .rng => m.indexRng
  | .fifo => m.indexFifo
  | .fsel => m.indexFsel

/-- `addr(win, reg) = REGMAP.base(win) + 4 * REGMAP.index(win, reg)` (rule R64). -/
def RegMap.addr (m : RegMap) (r : Reg) : Nat := m.base r.win + 4 * m.index r

/-- The field `REG` of a record for register `r` (rule R100). -/
def RegMap.regField (m : RegMap) (r : Reg) : BitVec 16 := BitVec.ofNat 16 (m.index r)

/-- The register of rule R37 that stands at word index `ix` of window `w`, if any: the accesses rule R71
admits. -/
def RegMap.reg? (m : RegMap) (w : Window) (ix : BitVec 16) : Option Reg :=
  Reg.all.find? fun r => r.win == w && m.index r == ix.toNat

end Sys2Proof
end

