-- ==== Sys2Proof/Syntax.lean ====
section
/-! DEFINITION. The instruction set: one constructor per row of `spec/opcode_table.json`, the six commands
of the CMD format and the seven micro-operations of the UOP format (rules R92, R100). -/

namespace Sys2Proof

/-- Commands (the host sends them, rule R92) and micro-operations (the micro-programs issue them,
rule R100). `ix` and `n` are the field `IDX`; `reg` of `ld` and `st` is the field `REG`, a register's word
index in its window. `showFrame` is the table's SHOW. -/
inductive Instr where
  | create (n : BitVec 32)
  | setrgb (ix : BitVec 32) (r g b : BitVec 8)
  | setnamed (ix : BitVec 32) (name : BitVec 8) (lum : BitVec 16)
  | showFrame
  | getpix (ix : BitVec 32)
  | destroy
  | chopen
  | map (win : Window)
  | ld (win : Window) (reg : BitVec 16)
  | st (win : Window) (reg : BitVec 16) (val : BitVec 32)
  | wait (t : Interval)
  | unmap (win : Window)
  | chclose
  deriving DecidableEq, Repr

end Sys2Proof
end

