-- ==== Sys2Proof/WellFormed.lean ====
section
/-! DEFINITION. Static checks: which instructions name a register that exists, which `REGMAP`s meet rules
R101 to R105, and which parameters meet rule R7. Each is a Bool. -/

namespace Sys2Proof

/-- An instruction is well-formed for a layout when the register an `LD` or `ST` names is one of rule R37's
registers of that window (rule R71). Every other field is legal at every value (rules R94, R100). -/
def Instr.wf (m : RegMap) : Instr → Bool
  | .ld w ix => (m.reg? w ix).isSome
  | .st w ix _ => (m.reg? w ix).isSome
  | .create _ | .setrgb _ _ _ _ | .setnamed _ _ _ | .showFrame | .getpix _ | .destroy
  | .chopen | .map _ | .wait _ | .unmap _ | .chclose => true

/-- The bits of a word that a field at `pos` of width `w` occupies. -/
def fieldMask (pos w : Nat) : Word := (BitVec.ofNat 32 (2 ^ w - 1)) <<< pos

/-- Two sets of bit positions have none in common. -/
def disjointBits (a b : Word) : Bool := a &&& b == 0#32

/-- Rule R101: bases are multiples of 4, windows are pairwise disjoint, the block size is a multiple of 4 and
at most `2^18`, and every register's word lies in its window (rule R64); registers of one window have
distinct indices (log entry 23). -/
def RegMap.wfWindows (m : RegMap) : Bool :=
  m.baseGpio % 4 == 0 && m.basePwm % 4 == 0 && m.baseClk % 4 == 0 &&
  (decide (m.baseGpio + m.blockSize ≤ m.basePwm) || decide (m.basePwm + m.blockSize ≤ m.baseGpio)) &&
  (decide (m.baseGpio + m.blockSize ≤ m.baseClk) || decide (m.baseClk + m.blockSize ≤ m.baseGpio)) &&
  (decide (m.basePwm + m.blockSize ≤ m.baseClk) || decide (m.baseClk + m.blockSize ≤ m.basePwm)) &&
  m.blockSize % 4 == 0 && decide (m.blockSize ≤ 2 ^ 18) &&
  Reg.all.all (fun r => decide (4 * m.index r < m.blockSize)) &&
  decide (m.indexPwmctl ≠ m.indexPwmdiv) &&
  decide [m.indexCtl, m.indexSta, m.indexDmac, m.indexRng, m.indexFifo].Nodup

/-- Rule R102: every field of `PWMCTL` and `PWMDIV` lies in the word, `divf` has at least 11 bits, and the
fields of one register overlap neither each other nor the 1 bits of `clk_const`. -/
def RegMap.wfClk (m : RegMap) : Bool :=
  decide (m.killPos < 32) && decide (m.enablePos < 32) &&
  decide (m.srcPos + m.srcW ≤ 32) && decide (m.diviPos + m.diviW ≤ 32) &&
  decide (m.divfPos + m.divfW ≤ 32) && decide (11 ≤ m.divfW) &&
  decide (m.killPos ≠ m.enablePos) &&
  disjointBits (fieldMask m.killPos 1) (fieldMask m.srcPos m.srcW) &&
  disjointBits (fieldMask m.enablePos 1) (fieldMask m.srcPos m.srcW) &&
  disjointBits (fieldMask m.diviPos m.diviW) (fieldMask m.divfPos m.divfW) &&
  disjointBits m.clkConst (fieldMask m.killPos 1) &&
  disjointBits m.clkConst (fieldMask m.enablePos 1) &&
  disjointBits m.clkConst (fieldMask m.srcPos m.srcW) &&
  disjointBits m.clkConst (fieldMask m.diviPos m.diviW) &&
  disjointBits m.clkConst (fieldMask m.divfPos m.divfW)

/-- Rules R103 to R105: seven distinct bit positions of `PWM.CTL`, a position for the DMA enable, and a pin
function field that lies in its word and holds `ALT_PWM`. -/
def RegMap.wfPwmGpio (m : RegMap) : Bool :=
  [m.enPos, m.modePos, m.usefPos, m.rptlPos, m.polaPos, m.sbitPos, m.clrfPos].all (fun p => decide (p < 32)) &&
  decide [m.enPos, m.modePos, m.usefPos, m.rptlPos, m.polaPos, m.sbitPos, m.clrfPos].Nodup &&
  decide (m.dmaEnablePos < 32) &&
  decide (m.fselShift + m.fselW ≤ 32) && decide (m.altPwm < 2 ^ m.fselW)

/-- `REGMAP` meets rules R101 to R105. -/
def RegMap.wf (m : RegMap) : Bool := m.wfWindows && m.wfClk && m.wfPwmGpio

/-- The parameters meet rule R7 (and `clk_src` fits its field, rule R107). -/
def Params.wf (p : Params) : Bool :=
  decide (1 ≤ p.capacity) && decide (p.capacity ≤ 59652323) &&
  decide (p.divInt < 2 ^ p.regmap.diviW) && decide (p.divFrac16 < 65536) &&
  decide (p.clkSrc < 2 ^ p.regmap.srcW) && decide (1 ≤ p.qdepth) && p.regmap.wf

end Sys2Proof
end

