-- ==== Sys2Proof/Decode.lean ====
section
/-! DEFINITION. The decoders of the CMD and UOP formats (rules R90 to R96, R100), total on 64-bit words and
rejecting by name, and after them the encoder, written from the same tables. A decoder knows its format
from the port a word arrives on, never from the bits (rule R90): `decodeCmd` reads the command port,
`decodeUop` a bus-event record. -/

namespace Sys2Proof

/-- The port a word arrives on, which tells its format (rule R90). -/
inductive Port where
  | cmd | uop
  deriving DecidableEq, Repr

/-- Why a decoder rejects a word: rule R95 for a command word, rule R100 for a record. -/
inductive DecodeError where
  /-- `OP` is 0 or 7 to 15 (rule R95). -/
  | illegalOpcode
  /-- `RSV` is not 0 (rules R91, R95, R100). -/
  | reservedNotZero
  /-- A field that must be 0 for this row is not 0 (rules R92, R95, R100). -/
  | fieldNotZero
  /-- `KIND` is 0 or 8 to 15: "other values never occur" (rule R100). -/
  | illegalKind
  /-- `WIN` is not 1, 2 or 3 where a window is needed (rule R100). -/
  | illegalWindow
  /-- The interval of a `WAIT` is not 1 or 2 (rule R100). -/
  | illegalInterval
  deriving DecidableEq, Repr

/-- A decoded bus event: the seven kinds of rule R100. -/
inductive Uop where
  | chopen
  | map (win : Window)
  | ld (win : Window) (reg : BitVec 16)
  | st (win : Window) (reg : BitVec 16) (val : BitVec 32)
  | wait (t : Interval)
  | unmap (win : Window)
  | chclose
  deriving DecidableEq, Repr

/-- The instruction a bus event is. -/
def Uop.toInstr : Uop → Instr
  | .chopen => .chopen
  | .map w => .map w
  | .ld w ix => .ld w ix
  | .st w ix v => .st w ix v
  | .wait t => .wait t
  | .unmap w => .unmap w
  | .chclose => .chclose

/-- The port an instruction arrives on: the `format` column of the opcode table. -/
def Instr.port : Instr → Port
  | .create _ | .setrgb _ _ _ _ | .setnamed _ _ _ | .showFrame | .getpix _ | .destroy => .cmd
  | .chopen | .map _ | .ld _ _ | .st _ _ _ | .wait _ | .unmap _ | .chclose => .uop

/-! ### The CMD format (rules R91 to R96) -/

/-- Bits 63:60 of a record: `OP` of a command (rule R91), `KIND` of a bus event (rule R100). -/
def opField (w : Record) : BitVec 4 := w.extractLsb' 60 4

/-- Bits 59:56: `RSV` of a command (rule R91), `WIN` of a bus event (rule R100). -/
def subField (w : Record) : BitVec 4 := w.extractLsb' 56 4

/-- `A`, bits 55:32 of a command (rule R91). -/
def aField (w : Record) : BitVec 24 := w.extractLsb' 32 24

/-- `IDX`, bits 31:0 of a command (rule R91). -/
def idxField (w : Record) : BitVec 32 := w.extractLsb' 0 32

/-- The command a word on the command port stands for, or why it is illegal (rules R92, R94, R95). -/
def decodeCmd (w : Record) : Except DecodeError Instr :=
  if subField w ≠ 0#4 then .error .reservedNotZero else
  match (opField w).toNat with
  | 1 => if aField w = 0#24 then .ok (.create (idxField w)) else .error .fieldNotZero
  | 2 => .ok (.setrgb (idxField w) ((aField w).extractLsb' 16 8) ((aField w).extractLsb' 8 8)
      ((aField w).extractLsb' 0 8))
  | 3 => .ok (.setnamed (idxField w) ((aField w).extractLsb' 16 8) ((aField w).extractLsb' 0 16))
  | 4 => if aField w = 0#24 ∧ idxField w = 0#32 then .ok .showFrame else .error .fieldNotZero
  | 5 => if aField w = 0#24 then .ok (.getpix (idxField w)) else .error .fieldNotZero
  | 6 => if aField w = 0#24 ∧ idxField w = 0#32 then .ok .destroy else .error .fieldNotZero
  | _ => .error .illegalOpcode

/-! ### The UOP format (rule R100) -/

/-- Bits 55:48 of a bus event, `RSV` (rule R100). -/
def uopRsvField (w : Record) : BitVec 8 := w.extractLsb' 48 8

/-- `REG`, bits 47:32 of a bus event (rule R100). -/
def regField (w : Record) : BitVec 16 := w.extractLsb' 32 16

/-- `VAL`, bits 31:0 of a bus event (rule R100). -/
def valField (w : Record) : BitVec 32 := w.extractLsb' 0 32

/-- The window of a code (rule R100): 1 GPIO, 2 PWM, 3 CLK. -/
def windowOfCode (c : BitVec 4) : Option Window :=
  match c.toNat with
  | 1 => some .gpio
  | 2 => some .pwm
  | 3 => some .clk
  | _ => none

/-- The interval of a code (rule R100): 1 `T_SETTLE`, 2 `T_FIFO_GAP`. -/
def intervalOfCode (c : BitVec 16) : Option Interval :=
  match c.toNat with
  | 1 => some .settle
  | 2 => some .fifoGap
  | _ => none

/-- A kind that takes a window: `f` applied to it when `WIN` is 1, 2 or 3. -/
def withWindow (w : Record) (f : Window → Except DecodeError Uop) : Except DecodeError Uop :=
  match windowOfCode (subField w) with
  | some win => f win
  | none => .error .illegalWindow

/-- The bus event a record stands for, or why it is none (rule R100). -/
def decodeUop (w : Record) : Except DecodeError Uop :=
  if uopRsvField w ≠ 0#8 then .error .reservedNotZero else
  match (opField w).toNat with
  | 1 => if subField w = 0#4 ∧ regField w = 0#16 ∧ valField w = 0#32 then .ok .chopen
      else .error .fieldNotZero
  | 2 => withWindow w fun win =>
      if regField w = 0#16 ∧ valField w = 0#32 then .ok (.map win) else .error .fieldNotZero
  | 3 => withWindow w fun win =>
      if valField w = 0#32 then .ok (.ld win (regField w)) else .error .fieldNotZero
  | 4 => withWindow w fun win => .ok (.st win (regField w) (valField w))
  | 5 => if subField w = 0#4 ∧ valField w = 0#32 then
        match intervalOfCode (regField w) with
        | some t => .ok (.wait t)
        | none => .error .illegalInterval
      else .error .fieldNotZero
  | 6 => withWindow w fun win =>
      if regField w = 0#16 ∧ valField w = 0#32 then .ok (.unmap win) else .error .fieldNotZero
  | 7 => if subField w = 0#4 ∧ regField w = 0#16 ∧ valField w = 0#32 then .ok .chclose
      else .error .fieldNotZero
  | _ => .error .illegalKind

/-- The instruction a word stands for on a given port (rule R90). -/
def decodePort : Port → Record → Except DecodeError Instr
  | .cmd, w => decodeCmd w
  | .uop, w => (decodeUop w).map Uop.toInstr

/-! ### The encoder -/

/-- A command word from its fields (rule R91). -/
def cmdWord (op : BitVec 4) (a : BitVec 24) (idx : BitVec 32) : Record := op ++ 0#4 ++ a ++ idx

/-- A bus-event record from its fields (rule R100). -/
def uopWord (kind win : BitVec 4) (reg : BitVec 16) (val : BitVec 32) : Record :=
  kind ++ win ++ 0#8 ++ reg ++ val

/-- The record code of a window (rule R100). -/
def Window.code : Window → BitVec 4
  | .gpio => 1#4
  | .pwm => 2#4
  | .clk => 3#4

/-- The record code of an interval (rule R100). -/
def Interval.code : Interval → BitVec 16
  | .settle => 1#16
  | .fifoGap => 2#16

/-- The opcode of a command (rule R92), the kind of a bus event (rule R100). -/
def Instr.opcode : Instr → BitVec 4
  | .create _ => 1#4
  | .setrgb _ _ _ _ => 2#4
  | .setnamed _ _ _ => 3#4
  | .showFrame => 4#4
  | .getpix _ => 5#4
  | .destroy => 6#4
  | .chopen => 1#4
  | .map _ => 2#4
  | .ld _ _ => 3#4
  | .st _ _ _ => 4#4
  | .wait _ => 5#4
  | .unmap _ => 6#4
  | .chclose => 7#4

/-- The word of an instruction in the format of its port (rules R91, R92, R94, R100). -/
def encode : Instr → Record
  | .create n => cmdWord 1#4 0#24 n
  | .setrgb ix r g b => cmdWord 2#4 (r ++ g ++ b) ix
  | .setnamed ix name lum => cmdWord 3#4 (name ++ lum) ix
  | .showFrame => cmdWord 4#4 0#24 0#32
  | .getpix ix => cmdWord 5#4 0#24 ix
  | .destroy => cmdWord 6#4 0#24 0#32
  | .chopen => uopWord 1#4 0#4 0#16 0#32
  | .map w => uopWord 2#4 w.code 0#16 0#32
  | .ld w ix => uopWord 3#4 w.code ix 0#32
  | .st w ix v => uopWord 4#4 w.code ix v
  | .wait t => uopWord 5#4 0#4 t.code 0#32
  | .unmap w => uopWord 6#4 w.code 0#16 0#32
  | .chclose => uopWord 7#4 0#4 0#16 0#32

/-! ### The opcode table's rows, and the host's entry point -/

/-- A row of rule R92's match and mask table: a word `c` selects it when `c & mask = match`. -/
structure MaskRow where
  mask : Record
  pattern : Record
  deriving DecidableEq, Repr

/-- The word selects the row. -/
def MaskRow.selects (row : MaskRow) (c : Record) : Bool := c &&& row.mask == row.pattern

/-- The match and mask values of rule R92, in its order. -/
def cmdRows : List MaskRow :=
  [⟨0xFFFFFFFF00000000#64, 0x1000000000000000#64⟩,
   ⟨0xFF00000000000000#64, 0x2000000000000000#64⟩,
   ⟨0xFF00000000000000#64, 0x3000000000000000#64⟩,
   ⟨0xFFFFFFFFFFFFFFFF#64, 0x4000000000000000#64⟩,
   ⟨0xFFFFFFFF00000000#64, 0x5000000000000000#64⟩,
   ⟨0xFFFFFFFFFFFFFFFF#64, 0x6000000000000000#64⟩]

/-- The bits of a table row as a record: bits above `nbits` are 0. -/
def tableRecord (nbits w : Nat) : Record := BitVec.ofNat 64 (w % 2 ^ nbits)

/-- What the decoders read from the bits of a table row. The table joins the two formats and gives no port,
so the word is read as a bus event first and, where it is none, as a command. The only word that is both is
`CHOPEN`'s, which is also `CREATE 0`'s (log entry 3); in this order every row has words that are read as it. -/
def decodeTableWord (nbits w : Nat) : Option Instr :=
  match decodeUop (tableRecord nbits w) with
  | .ok u => some u.toInstr
  | .error _ =>
    match decodeCmd (tableRecord nbits w) with
    | .ok i => some i
    | .error _ => none

/-! ### Assembler operands (rule R99) -/

/-- A command as written: numbers where the text has numbers (rule R99). -/
inductive Source where
  | create (n : Int)
  | setrgb (i : Int) (r g b : Nat)
  | setnamed (i : Int) (name lum : Nat)
  | showFrame
  | getpix (i : Int)
  | destroy
  deriving DecidableEq, Repr

/-- An index or a count: any integer in `-2^31 .. 2^32 - 1`, modulo `2^32` (rule R99). -/
def assembleIndex (i : Int) : Option (BitVec 32) :=
  if -2147483648 ≤ i ∧ i < 4294967296 then some (BitVec.ofInt 32 i) else none

/-- A number that must fit `w` bits (rule R99). -/
def assembleField (w v : Nat) : Option (BitVec w) := if v < 2 ^ w then some (BitVec.ofNat w v) else none

/-- The command a written command stands for, none where an operand is out of its range (rule R99). -/
def assembleInstr : Source → Option Instr
  | .create n => (assembleIndex n).map .create
  | .setrgb i r g b =>
    match assembleIndex i, assembleField 8 r, assembleField 8 g, assembleField 8 b with
    | some i, some r, some g, some b => some (.setrgb i r g b)
    | _, _, _, _ => none
  | .setnamed i name lum =>
    match assembleIndex i, assembleField 8 name, assembleField 16 lum with
    | some i, some name, some lum => some (.setnamed i name lum)
    | _, _, _ => none
  | .showFrame => some .showFrame
  | .getpix i => (assembleIndex i).map .getpix
  | .destroy => some .destroy

/-- The word of a written command (rule R99). -/
def assemble (c : Source) : Option Record := (assembleInstr c).map encode

end Sys2Proof
end

