-- ==== Sys2Proof/Machine/Defaults.lean ====
section
/-! DEFINITION. The default instantiation of `REGMAP` (rule R106: general knowledge of the BCM2835, "not in
source") and the parameters the spec's test vectors use. PRESUMED (log entries 1 and 2): `State.reset` starts
from them so that vectors can be run; no statement rests on them. -/

namespace Sys2Proof

/-- `fsel_index(pin) = pin div 10` (rule R106). -/
def fselIndexOf (pin : Nat) : Nat := pin / 10

/-- `fsel_shift(pin) = 3 * (pin mod 10)` (rule R106). -/
def fselShiftOf (pin : Nat) : Nat := 3 * (pin % 10)

/-- The default `REGMAP` (rule R106). PRESUMED, log entry 1. -/
def RegMap.bcm2835 : RegMap where
  baseGpio := 0x20200000
  basePwm := 0x2020C000
  baseClk := 0x20101000
  blockSize := 4096
  indexPwmctl := 40
  indexPwmdiv := 41
  indexCtl := 0
  indexSta := 1
  indexDmac := 2
  indexRng := 4
  indexFifo := 6
  indexFsel := fselIndexOf Config.pwmPin
  clkConst := 0x5A000000#32
  killPos := 5
  enablePos := 4
  srcPos := 0
  srcW := 4
  diviPos := 12
  diviW := 12
  divfPos := 0
  divfW := 12
  enPos := 0
  modePos := 1
  usefPos := 5
  rptlPos := 2
  polaPos := 4
  sbitPos := 3
  clrfPos := 6
  errClearAll := 0x000001FC#32
  dmaEnablePos := 31
  fselW := 3
  fselShift := fselShiftOf Config.pwmPin
  altPwm := 2

/-- The parameters of the spec's vectors (`95_test_vectors.md`: `DIV_INT = 8`, `DIV_FRAC16 = 0`, `CLK_SRC = 1`,
`QDEPTH = 8`, `C = 4`). The intervals are in microseconds, 1000 for the source's "≈1 ms", 0 where the
source gives no number. DESIGN CHOICE, log entry 2. -/
def Params.vectors : Params where
  capacity := 4
  divInt := 8
  divFrac16 := 0
  clkSrc := 1
  tSettle := 1000
  tFifoGap := 0
  tReset := 0
  qdepth := 8
  regmap := RegMap.bcm2835
  namedColors := []
  lumScales := []

end Sys2Proof
end

