-- ==== Sys2Proof/Machine/State.lean ====
section
/-! DEFINITION. The machine's state as plain data: the state of rule R20, the trace of rule R35, the command
and response ports of decision D1, the environment's inputs (rule R120), and the external devices of
`45_peripheral_environment.md` (rule R241), with the state after reset (rule R50). -/

namespace Sys2Proof.Machine

/-- `STATE` (rule R24). -/
inductive InstState where
  | unconfigured | ready
  deriving DecidableEq, Repr

/-- `CHAN` (rule R33). -/
inductive ChanState where
  | closed | opened
  deriving DecidableEq, Repr

/-- The three `MAPPED` bits (rule R33). -/
structure Mapped where
  gpio : Bool
  pwm : Bool
  clk : Bool
  deriving DecidableEq, Repr

/-- `MAPPED[win]`. -/
def Mapped.get (m : Mapped) : Window → Bool
  | .gpio => m.gpio
  | .pwm => m.pwm
  | .clk => m.clk

/-- `MAPPED[win] <- b`. -/
def Mapped.set (m : Mapped) : Window → Bool → Mapped
  | .gpio, b => { m with gpio := b }
  | .pwm, b => { m with pwm := b }
  | .clk, b => { m with clk := b }

/-- No handle is held. -/
def Mapped.none : Mapped := ⟨false, false, false⟩

/-- All three handles are held. -/
def Mapped.all : Mapped := ⟨true, true, true⟩

/-- The phase of `SEQ` (rule R30); `showing` is the phase SHOW. -/
inductive Phase where
  | idle | create | showing | destroy
  deriving DecidableEq, Repr

/-- `SEQ = {phase, idx}` (rule R30). -/
structure Seq where
  phase : Phase
  idx : Nat
  deriving DecidableEq, Repr

/-- `SEQ` at every command boundary (rule R30). -/
def Seq.idle : Seq := ⟨.idle, 0⟩

/-- The result codes of rule R266. -/
inductive ErrCode where
  | success | configuration | index | hardwareAccess | state | illegalCommand
  deriving DecidableEq, Repr

/-- An entry of a micro-program (rules R146, R160, R217). -/
inductive MicroOp where
  /-- A bus event whose operands are constants of the configuration. -/
  | bus (u : Uop)
  /-- U4: `N` and `PIX` are initialised between U3 and U4 (rules R144, R146), then `LD GPIO.FSEL`. -/
  | initThenLoad
  /-- U5: `ST GPIO.FSEL, FSELW(FSEL_V)` (rule R147). -/
  | storeFsel
  /-- T(6+2w): `ST PWM.FIFO, Q[w]` (rule R221). -/
  | storeWord (w : Nat)
  deriving DecidableEq, Repr

/-- What the controller keeps of the command it is running, the model's own (log entry 5): the
micro-operation list that `SEQ.idx` indexes (rule R30), the latched operand `IDX` of CREATE, and the result
code the command will respond with. -/
structure Run where
  prog : List MicroOp
  arg : BitVec 32
  code : ErrCode
  deriving DecidableEq, Repr

/-- No command is running. -/
def Run.idle : Run := ⟨[], 0#32, .success⟩

/-- The environment's inputs (rule R120, decision D35; log entries 6 and 7): the answers to the coming `CHOPEN`s and
`MAP`s and to the coming `LD`s, oldest first; the numbers of wire-bit periods the serializer gets after each
of the controller's coming moves; and the counter the free values are drawn with. An exhausted list of answers
gives free values. -/
structure Env where
  grants : List Bool
  loads : List Word
  ticks : List Nat
  draws : Nat
  deriving DecidableEq, Repr

/-- One item of `LINE` (rule R241): a wire-bit period whose level the contract gives, or a stretch it gives no
meaning to (`93_implementation_defined.md` U2, rule R252). -/
inductive WireItem where
  | bit (b : Bool)
  | unspecified
  deriving DecidableEq, Repr

/-- Marks of a run in which the wire-level contract is void (rule R276): they are not WSPWM errors. -/
inductive EnvFault where
  /-- A word was stored to a full queue (rule R243). -/
  | queueOverflow
  /-- The range register is wider than a word, so `SHIFT[31 - POS]` names no bit (rule R247). -/
  | rangeBeyondWord
  deriving DecidableEq, Repr

/-- The external devices (rule R241). `clkDiv1024` is `CLK_DIV` in units of 1/1024 (rule R251). -/
structure Devices where
  queue : List Word
  pEn : Bool
  pMode : Bool
  pUsef : Bool
  pRptl : Bool
  pPola : Bool
  pSbit : Bool
  pRng : Nat
  pErr : Word
  pDma : Bool
  shift : Option Word
  pos : Nat
  clkRun : Bool
  clkDiv1024 : Nat
  clkSel : Nat
  pinFunc : Nat
  line : List WireItem
  envFault : Option EnvFault
  deriving DecidableEq, Repr

/-- The whole state. `cfg` is the configuration, which no step changes; then the state of rule R20 under its
names (`inst` is `STATE`); then the trace `TR` (rule R35), the words waiting on the command port and the
responses issued so far (decision D1, log entry 12), the running command, the environment's inputs
and the devices. -/
structure State where
  cfg : Params
  pix : List Color
  n : BitVec 32
  inst : InstState
  err : BitVec 4
  chan : ChanState
  mapped : Mapped
  wave : List Word
  q : List Word
  seq : Seq
  fselV : Word
  tr : List Record
  cmdPort : List Record
  rsp : List Word
  run : Run
  env : Env
  dev : Devices
  deriving DecidableEq, Repr

/-- Why the machine is stuck (log entry 26). Every one of these marks a micro-operation that rule R71 and the
`require` lines
of rules R122 to R128 do not admit ("any other request has no step (the model is stuck)"); no micro-program
of the spec issues one, and all are safe: the model stops where the spec gives no step. -/
inductive Fault where
  /-- `CHOPEN` with the channel open (rule R122; raised by `execChopen`; safe). -/
  | channelAlreadyOpen
  /-- `MAP` or `CHCLOSE` with the channel closed (rules R123, R128; raised by `execMap`, `execChclose`; safe). -/
  | channelNotOpen
  /-- `MAP` of a window that is mapped (rule R123; raised by `execMap`; safe). -/
  | windowAlreadyMapped
  /-- `LD`, `ST` or `UNMAP` of a window that is not mapped (rules R71, R124, R125, R127; raised by `execLd`,
  `execSt`, `execUnmap`; safe). -/
  | windowNotMapped
  /-- `LD` or `ST` of a word that is none of rule R37's registers (rule R71; raised by `execLd`, `execSt`; safe). -/
  | noSuchRegister
  /-- `CHCLOSE` with a handle still held (rule R128; raised by `execChclose`; safe). -/
  | handlesHeld
  deriving DecidableEq, Repr

/-- An instruction without a meaning. -/
inductive Refusal where
  /-- The instruction has no meaning in this model yet (raised by `exec`'s arms only; safe). No arm uses it. -/
  | notModelled (mnemonic : String)
  deriving DecidableEq, Repr

/-- The devices before any store of the controller. The source gives no device register's reset value (rule R50,
`91_not_in_source.md` N14). PRESUMED (log entry 10): the values of the BCM2835, whose layout rule R106 is;
its range register resets to 32, everything else to 0, empty or off. -/
def Devices.reset : Devices where
  queue := []
  pEn := false
  pMode := false
  pUsef := false
  pRptl := false
  pPola := false
  pSbit := false
  pRng := 32
  pErr := 0#32
  pDma := false
  shift := none
  pos := 0
  clkRun := false
  clkDiv1024 := 0
  clkSel := 0
  pinFunc := 0
  line := []
  envFault := none

/-- The state after hardware reset (rules R50, R301, R302). `PIX`, `WAVE`, `Q` and `FSEL_V` are unspecified there:
DESIGN CHOICE (log entry 4), zero and empty. -/
def State.reset : State where
  cfg := Params.vectors
  pix := List.replicate Params.vectors.capacity ⟨0#8, 0#8, 0#8⟩
  n := 0#32
  inst := .unconfigured
  err := 0#4
  chan := .closed
  mapped := Mapped.none
  wave := []
  q := []
  seq := Seq.idle
  fselV := 0#32
  tr := []
  cmdPort := []
  rsp := []
  run := Run.idle
  env := ⟨[], [], [], 0⟩
  dev := Devices.reset

end Sys2Proof.Machine
end

