-- ==== Sys2Proof/Machine/Operands.lean ====
section
/-! DEFINITION. Operand forms: the index check of the pixel commands (rules R93, R172), the pixel registers
(rules R21, R22), the colour of a name and its luminance scaling (rules R177, R178). -/

namespace Sys2Proof.Machine

/-- The index check of rule R172: `zext(IDX) < N`, both unsigned (rule R93). -/
def State.indexValid (s : State) (ix : BitVec 32) : Bool := decide (ix.toNat < s.n.toNat)

/-- The zero Color `{0, 0, 0}` (rule R144). -/
def Color.zero : Color := ⟨0#8, 0#8, 0#8⟩

/-- `PIX[i]` (rule R10). -/
def State.pixel (s : State) (i : Nat) : Color := s.pix.getD i Color.zero

/-- `PIX[i] <- c` (rule R10). -/
def State.setPixel (s : State) (i : Nat) (c : Color) : State := { s with pix := s.pix.set i c }

/-- A Color as the 24-bit value `r ++ g ++ b` of the response word (rules R21, R97). -/
def colorData (c : Color) : BitVec 24 := c.r ++ c.g ++ c.b

/-- `NAMED_COLOR(name)` (rule R177): the configuration's value where it makes one known, else free. -/
def namedColor (p : Params) (name : BitVec 8) : Option Color :=
  (p.namedColors.lookup name).getD (Config.namedColor name)

/-- `LUM_SCALE(c, lum)` (rule R178): the configuration's value where it makes one known, else free. -/
def lumScale (p : Params) (c : Color) (lum : BitVec 16) : Color :=
  (p.lumScales.lookup (c, lum)).getD (Config.lumScale c lum)

end Sys2Proof.Machine
end

