-- ==== Sys2Proof/Machine/Encoder.lean ====
section
/-! DEFINITION. The WaveformEncoder (`43_waveform_encoder.md`): a pure function from `PIX[0..N-1]` to `WAVE` and
`Q`, written rule by rule along the data path. -/

namespace Sys2Proof.Machine

/-- `M(N) = ceil(72 * N / 32)` (rules R8, R197). -/
def wordCount (n : Nat) : Nat := (72 * n + 31) / 32

/-- `L(N) = 72 * N` wire-bits (rules R8, R194). -/
def streamLength (n : Nat) : Nat := 72 * n

/-- `V(p) = g ++ r ++ b`, the 24-bit value of a pixel (rule R191). -/
def pixelValue (c : Color) : BitVec 24 := c.g ++ c.r ++ c.b

/-- `d(k) = V(k div 24)[23 - (k mod 24)]` (rule R192). -/
def dataBit (pix : List Color) (k : Nat) : Bool :=
  (pixelValue (pix.getD (k / 24) Color.zero)).getLsbD (23 - k % 24)

/-- `S[b]`: the symbol `(1, d, 0)` of each data bit in turn (rules R108, R193). -/
def streamBit (pix : List Color) (b : Nat) : Bool :=
  if b % 3 = 0 then true else if b % 3 = 1 then dataBit pix (b / 3) else false

/-- The number whose bits 0 to `k - 1` are `f 0` to `f (k - 1)`. -/
def bitsToNat (f : Nat → Bool) : Nat → Nat
  | 0 => 0
  | k + 1 => bitsToNat f k + if f k then 2 ^ k else 0

/-- The 32-bit word whose bit `i` is `f i`. -/
def wordOf (f : Nat → Bool) : Word := BitVec.ofNat 32 (bitsToNat f 32)

/-- `WAVE[w]` (rules R195, R196): bit `i` is stream position `32w + i`, 0 from the end of the stream on. -/
def waveWord (pix : List Color) (n w : Nat) : Word :=
  wordOf fun i => decide (32 * w + i < streamLength n) && streamBit pix (32 * w + i)

/-- `WAVE[0..M-1]` (rules R190, R195). -/
def encodeWave (pix : List Color) (n : Nat) : List Word :=
  (List.range (wordCount n)).map (waveWord pix n)

/-- `bitrev32(x)[i] = x[31 - i]` (rule R199). -/
def bitrev32 (x : Word) : Word := wordOf fun i => x.getLsbD (31 - i)

/-- `Q[0..M-1]`: every word of `WAVE` reversed, their order kept (rule R198). -/
def encodeQueue (pix : List Color) (n : Nat) : List Word := (encodeWave pix n).map bitrev32

end Sys2Proof.Machine
end

