-- ==== Sys2Proof/Machine/RegValues.lean ====
section
/-! DEFINITION. The values the controller stores, built from `REGMAP` by the functions of rule R107, the
divisor fraction of rule R152, and the bit-field readers the devices use. -/

namespace Sys2Proof.Machine

/-- A one-bit field: `b << pos`. -/
def bitAt (pos : Nat) (b : Bool) : Word := if b then 1#32 <<< pos else 0#32

/-- A field of a number: `v << pos`. -/
def fieldAt (pos v : Nat) : Word := BitVec.ofNat 32 v <<< pos

/-- The value of the field of width `w` at `pos` in a word. -/
def readField (pos w : Nat) (v : Word) : Nat := (v.toNat >>> pos) % 2 ^ w

/-- `CLKCTL(kill, enable, src)` (rule R107). -/
def clkctl (m : RegMap) (kill enable : Bool) (src : Nat) : Word :=
  m.clkConst ||| bitAt m.killPos kill ||| bitAt m.enablePos enable ||| fieldAt m.srcPos src

/-- `CLKDIV(divi, divf)` (rule R107). -/
def clkdiv (m : RegMap) (divi divf : Nat) : Word :=
  m.clkConst ||| fieldAt m.diviPos divi ||| fieldAt m.divfPos divf

/-- `CTLW(en, mode, usef, rptl, pola, sbit, clrf)` (rule R107). -/
def ctlw (m : RegMap) (en mode usef rptl pola sbit clrf : Bool) : Word :=
  bitAt m.enPos en ||| bitAt m.modePos mode ||| bitAt m.usefPos usef ||| bitAt m.rptlPos rptl |||
  bitAt m.polaPos pola ||| bitAt m.sbitPos sbit ||| bitAt m.clrfPos clrf

/-- `CFGWORD` (rule R107): serializer mode and FIFO source on, all else off. -/
def cfgWord (m : RegMap) : Word := ctlw m false true true false false false false

/-- `CFG_EN` (rule R107): `CFGWORD` with `en = 1`. -/
def cfgEn (m : RegMap) : Word := ctlw m true true true false false false false

/-- `CFG_CLR` (rule R107): `CFGWORD` with `clrf = 1`. -/
def cfgClr (m : RegMap) : Word := ctlw m false true true false false false true

/-- `DMACW(dma_enable)` (rule R107). -/
def dmacw (m : RegMap) (dmaEnable : Bool) : Word := bitAt m.dmaEnablePos dmaEnable

/-- `FSELW(v)` (rule R107): the field of pin `PWM_PIN` replaced by `ALT_PWM`, every other bit of `v` kept. -/
def fselw (m : RegMap) (v : Word) : Word :=
  (v &&& ~~~ fieldAt m.fselShift (2 ^ m.fselW - 1)) ||| fieldAt m.fselShift m.altPwm

/-- `DIVF = (DIV_FRAC16 + 32) div 64` (rule R152): `f * 1024` rounded, ties up. -/
def divf (divFrac16 : Nat) : Nat := (divFrac16 + 32) / 64

end Sys2Proof.Machine
end

