-- ==== Sys2Proof/Machine/Devices.lean ====
section
/-! DEFINITION. The external devices' contract (`45_peripheral_environment.md`): what a store to each register
does, applied at the store (rule R242), and the serializer's step (rule R247). `k` is the counter a free value
is drawn with. -/

namespace Sys2Proof.Machine

/-- The serializer has sent some but not all bits of the word it holds (rule R247). -/
def Devices.midWord (d : Devices) : Bool := d.shift.isSome && d.pos != d.pRng

/-- `ST PWM.CTL, v` (rule R244): the stored fields become those of `v`; `clrf` empties the queue and is not
stored. `en` going from 1 to 0 stops the serializer and drops the word it holds; in mid-word what the line
does is not in the source, so the stretch is marked (`93_implementation_defined.md` U2; log entry 9). With `en` still
1, `mode` or `usef` going to 0 keeps the word and its position, the model's choice (log entry 31). -/
def Devices.storeCtl (m : RegMap) (v : Word) (d : Devices) : Devices :=
  let stopped := d.pEn && !v.getLsbD m.enPos
  { d with
    pEn := v.getLsbD m.enPos
    pMode := v.getLsbD m.modePos
    pUsef := v.getLsbD m.usefPos
    pRptl := v.getLsbD m.rptlPos
    pPola := v.getLsbD m.polaPos
    pSbit := v.getLsbD m.sbitPos
    queue := if v.getLsbD m.clrfPos then [] else d.queue
    line := if stopped && d.midWord then d.line ++ [.unspecified] else d.line
    shift := if stopped then none else d.shift
    pos := if stopped then 0 else d.pos }

/-- `ST PWM.STA, v` (rule R245): `ERR_CLEAR_ALL` clears every pending error flag; for another value, which no
micro-program stores, the source does not say which flags remain (`93_implementation_defined.md` U8; log
entry 15). -/
def Devices.storeSta (m : RegMap) (v : Word) (k : Nat) (d : Devices) : Devices :=
  { d with pErr := if v = m.errClearAll then 0#32 else Config.freeErrFlags k }

/-- `ST PWM.FIFO, v` (rule R243): the word joins the tail of the queue; a full queue is the environment fault
`QueueOverflow`, which marks the run and is no error of WSPWM (rule R276; log entry 14). -/
def Devices.storeFifo (p : Params) (v : Word) (k : Nat) (d : Devices) : Devices :=
  if d.queue.length < p.qdepth then { d with queue := d.queue ++ [v] }
  else { d with pErr := Config.freeErrFlags k, envFault := some .queueOverflow }

/-- `ST CLK.PWMCTL, v` (rules R38, R67, R251): `kill` stops the clock generator, whatever else the store holds;
`enable` selects the source and, without `kill`, starts it. The model's readings: both bits at once is log entry 16;
neither of them, which the spec leaves open, is log entry 30 (a clock that runs goes on or not by a free value, a
stopped one stays stopped, the selected source stays); the constant bits are not checked: log entry 21. -/
def Devices.storePwmctl (m : RegMap) (v : Word) (k : Nat) (d : Devices) : Devices :=
  let kill := v.getLsbD m.killPos
  let enable := v.getLsbD m.enablePos
  { d with
    clkRun := !kill && (enable || (d.clkRun && Config.freeClkRun k))
    clkSel := if enable then readField m.srcPos m.srcW v else d.clkSel }

/-- `ST CLK.PWMDIV, v` (rule R251): `CLK_DIV = divi + divf / 1024`, at once and with the clock running too, which is
the model's choice (log entry 32); the constant bits are not checked (log entry 21). -/
def Devices.storePwmdiv (m : RegMap) (v : Word) (d : Devices) : Devices :=
  { d with clkDiv1024 := 1024 * readField m.diviPos m.diviW v + readField m.divfPos m.divfW v }

/-- `ST win.reg, v` at the device, at once (rules R242 to R246, R251, R252; log entry 8). For values other than those
of R246, `RNG` and `DMAC` store the value and the field, the model's reading (log entry 33). -/
def Devices.store (p : Params) (r : Reg) (v : Word) (k : Nat) (d : Devices) : Devices :=
  match r with
  | .pwmctl => d.storePwmctl p.regmap v k
  | .pwmdiv => d.storePwmdiv p.regmap v
  | .ctl => d.storeCtl p.regmap v
  | .sta => d.storeSta p.regmap v k
  | .dmac => { d with pDma := v.getLsbD p.regmap.dmaEnablePos }
  | .rng => { d with pRng := v.toNat }
  | .fifo => d.storeFifo p v k
  | .fsel => { d with pinFunc := readField p.regmap.fselShift p.regmap.fselW v }

/-- The serializer takes a step at each wire-bit period while it is enabled, in serializer mode and fed from
the queue (rule R247), and the clock runs (rule R251; log entry 29); never after an environment fault, where
no statement about `LINE` holds (rule R276; log entry 14). While one of the first three is off, the word in progress
stands still and nothing joins the line: for `P_EN` see `storeCtl`, for the other two log entry 31. -/
def Devices.shifting (d : Devices) : Bool :=
  d.pEn && d.pMode && d.pUsef && d.clkRun && d.envFault.isNone

/-- What the pin carries in one period for the wire-bit `b` (rules R248, R252): its level under the polarity
when the pin is on the PWM function, else what the source does not say (log entries 18 and 19). -/
def Devices.wireItem (p : Params) (d : Devices) (b : Bool) : WireItem :=
  if d.pinFunc = p.regmap.altPwm then .bit (b != d.pPola) else .unspecified

/-- Append `SHIFT[31 - POS]` to `LINE` and step `POS` (rule R247; past bit 0: log entry 20). -/
def Devices.sendBit (p : Params) (v : Word) (d : Devices) : Devices :=
  if d.pos < 32 then
    { d with line := d.line ++ [d.wireItem p (v.getLsbD (31 - d.pos))], pos := d.pos + 1 }
  else { d with envFault := some .rangeBeyondWord }

/-- With nothing to send: the padding bit (rule R248), or with `P_RPTL = 1` the last word again (rule R40; log
entries 19 and 28). -/
def Devices.sendIdle (p : Params) (d : Devices) : Devices :=
  match d.pRptl, d.shift with
  | true, some v => { d with pos := 0 }.sendBit p v
  | _, _ => { d with line := d.line ++ [d.wireItem p d.pSbit] }

/-- One wire-bit period (rule R247). -/
def Devices.tick (p : Params) (d : Devices) : Devices :=
  if d.shifting then
    match d.midWord, d.shift, d.queue with
    | true, some v, _ => d.sendBit p v
    | _, _, v :: rest => { d with shift := some v, pos := 0, queue := rest }.sendBit p v
    | _, _, [] => d.sendIdle p
  else d

/-- `k` wire-bit periods. -/
def Devices.serialize (p : Params) : Nat → Devices → Devices
  | 0, d => d
  | k + 1, d => serialize p k (d.tick p)

end Sys2Proof.Machine
end

