-- ==== Sys2Proof/Machine/Flags.lean ====
section
/-! DEFINITION. The one flag register `ERR` (rule R25): the result codes of rule R266 and the response word that
carries them (rule R97). -/

namespace Sys2Proof.Machine

/-- The numeric code of a result (rule R266). -/
def ErrCode.bits : ErrCode → BitVec 4
  | .success => 0#4
  | .configuration => 1#4
  | .index => 2#4
  | .hardwareAccess => 3#4
  | .state => 4#4
  | .illegalCommand => 5#4

/-- `RSP`: `ERR` in bits 31:28, 0 in bits 27:24, `DATA` in bits 23:0 (rule R97). -/
def rspWord (c : ErrCode) (data : BitVec 24) : Word := c.bits ++ 0#4 ++ data

end Sys2Proof.Machine
end

