-- ==== Sys2Proof/Machine/Ops.lean ====
section
/-! DEFINITION. The shared operations: emitting a bus event, the environment's answers, the serializer's turn,
the sequencer's advance, completing a command and raising an error ("trap entry", rule R273), and the effect
of each micro-operation (rules R122 to R128). -/

namespace Sys2Proof.Machine

/-- `Emit(u)`: append the record to the trace (rules R10, R35, R100). -/
def State.emit (s : State) (u : Uop) : State := { s with tr := s.tr ++ [encode u.toInstr] }

/-- The environment's answer to a `CHOPEN` or a `MAP` (rule R120). -/
def State.grantAnswer (s : State) : Bool := s.env.grants.headD (Config.freeGrant s.env.draws)

/-- The answer is used up. -/
def State.dropGrant (s : State) : State := { s with env := { s.env with grants := s.env.grants.tail } }

/-- The environment's answer to an `LD` (rules R75, R120). -/
def State.loadAnswer (s : State) : Word := s.env.loads.headD (Config.freeLoad s.env.draws)

/-- The answer is used up. -/
def State.dropLoad (s : State) : State := { s with env := { s.env with loads := s.env.loads.tail } }

/-- The wire-bit periods that pass before the controller's next move: the serializer takes them (rules R240,
R247). An empty list is no period (log entry 7). -/
def State.elapse (s : State) : State :=
  { s with
    env := { s.env with ticks := s.env.ticks.tail }
    dev := s.dev.serialize s.cfg (s.env.ticks.headD 0) }

/-- A completed micro-operation: `idx <- idx + 1` (rule R31), the free-value counter moves on, and the
serializer gets the periods that pass. -/
def State.advance (s : State) : State :=
  { s with
    seq := { s.seq with idx := s.seq.idx + 1 }
    env := { s.env with draws := s.env.draws + 1 } }.elapse

/-- The end of a command (rules R31, R97, R273): `ERR` takes the code, the response is issued, `SEQ <- {IDLE, 0}`. -/
def State.complete (s : State) (c : ErrCode) (data : BitVec 24) : State :=
  { s with
    err := c.bits
    rsp := s.rsp ++ [rspWord c data]
    seq := Seq.idle
    run := Run.idle }

/-- `raise E` (rule R273): the response carries the code and `DATA = 0`; nothing else is saved and no mode
changes. -/
def State.raise (s : State) (c : ErrCode) : State := s.complete c 0#24

/-- `respond RSP{ERR=0, DATA=data}` (rules R97, R274). -/
def State.respond (s : State) (data : BitVec 24) : State := s.complete .success data

/-- What undoes an acquisition (rule R150). -/
def MicroOp.undo : MicroOp → Option MicroOp
  | .bus .chopen => some (.bus .chclose)
  | .bus (.map w) => some (.bus (.unmap w))
  | .bus (.ld _ _) | .bus (.st _ _ _) | .bus (.wait _) | .bus (.unmap _) | .bus .chclose
  | .initThenLoad | .storeFsel | .storeWord _ => none

/-- The cleanup list after the micro-operations `done` were granted: each acquisition undone, the last one
first (rule R150). -/
def cleanup (done : List MicroOp) : List MicroOp := done.reverse.filterMap MicroOp.undo

/-- A denied `CHOPEN` or `MAP` (rules R31, R150): the rest of the micro-program is replaced by the cleanup list,
and the command will raise `HardwareAccessError`. -/
def State.abort (s : State) : State :=
  { s with
    run := { s.run with
      prog := s.run.prog.take (s.seq.idx + 1) ++ cleanup (s.run.prog.take s.seq.idx)
      code := .hardwareAccess } }.advance

/-- `MAPPED[win] <- b` (rule R33). -/
def State.setMapped (s : State) (w : Window) (b : Bool) : State := { s with mapped := s.mapped.set w b }

/-- The effect of `CHOPEN` (rule R122). -/
def State.doChopen (s : State) : State :=
  if s.grantAnswer then { (s.emit .chopen).dropGrant with chan := .opened }.advance
  else (s.emit .chopen).dropGrant.abort

/-- The effect of `MAP win` (rule R123). -/
def State.doMap (s : State) (w : Window) : State :=
  if s.grantAnswer then ((s.emit (.map w)).dropGrant.setMapped w true).advance
  else (s.emit (.map w)).dropGrant.abort

/-- The effect of `LD win.reg` (rule R124): the value the device answers with is latched in `FSEL_V` (rule R32; log
entry 17). -/
def State.doLd (s : State) (w : Window) (ix : BitVec 16) : State :=
  { (s.emit (.ld w ix)).dropLoad with fselV := s.loadAnswer }.advance

/-- The effect of `ST win.reg, v` (rule R125): the store reaches the device at once (rule R242). -/
def State.doSt (s : State) (w : Window) (ix : BitVec 16) (v : Word) : State :=
  { s.emit (.st w ix v) with
    dev := match s.cfg.regmap.reg? w ix with
      | some r => s.dev.store s.cfg r v s.env.draws
      | none => s.dev }.advance

/-- The effect of `WAIT t` (rule R126): the event alone, without a duration (log entry 24). -/
def State.doWait (s : State) (t : Interval) : State := (s.emit (.wait t)).advance

/-- The effect of `UNMAP win` (rule R127). -/
def State.doUnmap (s : State) (w : Window) : State := ((s.emit (.unmap w)).setMapped w false).advance

/-- The effect of `CHCLOSE` (rule R128). -/
def State.doChclose (s : State) : State := { s.emit .chclose with chan := .closed }.advance

/-- The effect of a bus event. -/
def State.doUop (s : State) : Uop → State
  | .chopen => s.doChopen
  | .map w => s.doMap w
  | .ld w ix => s.doLd w ix
  | .st w ix v => s.doSt w ix v
  | .wait t => s.doWait t
  | .unmap w => s.doUnmap w
  | .chclose => s.doChclose

end Sys2Proof.Machine
end

