-- ==== Sys2Proof/Machine/Sequencer.lean ====
section
/-! DEFINITION. The sequencer (rules R30, R31): the micro-programs of CREATE, SHOW and DESTROY (rules R146, R217,
R160), the step that runs one of their entries, and the run of a whole command, which is the iteration of that
step (rule R11: "the two views give the same trace"). -/

namespace Sys2Proof.Machine

/-- A store of a constant to a register. -/
def stOp (p : Params) (r : Reg) (v : Word) : MicroOp := .bus (.st r.win (p.regmap.regField r) v)

/-- `WAIT SETTLE`. -/
def settleOp : MicroOp := .bus (.wait .settle)

/-- U0 to U3: the mapping phase (rule R143); `CHOPEN` only when the channel is closed. -/
def mappingPhase (c : ChanState) : List MicroOp :=
  (if c = .closed then [.bus .chopen] else []) ++
    [.bus (.map .gpio), .bus (.map .pwm), .bus (.map .clk)]

/-- U4 to U20 (rules R147 to R157). -/
def configurePhase (p : Params) : List MicroOp :=
  [.initThenLoad, .storeFsel,
   stOp p .pwmctl (clkctl p.regmap true false 0), settleOp,
   stOp p .dmac (dmacw p.regmap false), settleOp,
   stOp p .pwmdiv (clkdiv p.regmap p.divInt (divf p.divFrac16)), settleOp,
   stOp p .pwmctl (clkctl p.regmap false true p.clkSrc), settleOp,
   stOp p .ctl 0#32, settleOp,
   stOp p .rng 32#32, settleOp,
   stOp p .sta p.regmap.errClearAll, settleOp,
   stOp p .ctl (cfgWord p.regmap)]

/-- The micro-program of CREATE (rule R146). -/
def createProgram (p : Params) (c : ChanState) : List MicroOp := mappingPhase c ++ configurePhase p

/-- T(6+2w), T(7+2w) for `w = 0 .. m-1` (rule R221). -/
def queuePhase (m : Nat) : List MicroOp :=
  (List.range m).flatMap fun w => [.storeWord w, .bus (.wait .fifoGap)]

/-- The micro-program of SHOW for `m` words (rule R217). -/
def showProgram (p : Params) (m : Nat) : List MicroOp :=
  [stOp p .ctl (cfgWord p.regmap), stOp p .ctl (cfgWord p.regmap), settleOp,
   stOp p .ctl (cfgClr p.regmap), stOp p .sta p.regmap.errClearAll, settleOp] ++
  queuePhase m ++ [stOp p .ctl (cfgEn p.regmap)]

/-- The micro-program of DESTROY (rule R160). -/
def destroyProgram : List MicroOp :=
  [.bus (.unmap .clk), .bus (.unmap .pwm), .bus (.unmap .gpio), .bus .chclose]

/-- Rule R144: `N <- zext(IDX)` and every one of the `C` entries of `PIX` zero. -/
def State.initPixels (s : State) : State :=
  { s with n := s.run.arg, pix := List.replicate s.cfg.capacity Color.zero }

/-- What the sequencer does before it issues an entry: rule R144 between U3 and U4, else nothing. -/
def MicroOp.prepare : MicroOp → State → State
  | .initThenLoad, s => s.initPixels
  | .bus _, s | .storeFsel, s | .storeWord _, s => s

/-- The bus event an entry issues, its symbolic operands read from the state (rules R147, R221). -/
def MicroOp.uop (s : State) : MicroOp → Uop
  | .bus u => u
  | .initThenLoad => .ld .gpio (s.cfg.regmap.regField .fsel)
  | .storeFsel => .st .gpio (s.cfg.regmap.regField .fsel) (fselw s.cfg.regmap s.fselV)
  | .storeWord w => .st .pwm (s.cfg.regmap.regField .fifo) (s.q.getD w 0#32)

/-- The list is exhausted (rules R31, R158, R159, R216): the command's last state changes and its response. -/
def State.finish (s : State) : State :=
  match s.run.code, s.seq.phase with
  | .success, .create => { s with inst := .ready }.respond 0#24
  | .success, .destroy => { s with n := 0#32, inst := .unconfigured }.respond 0#24
  | .success, .showing => s.respond 0#24
  | .success, .idle => s
  | c, _ => s.raise c

/-- One step of the sequencer: the entry at `SEQ.idx`, or the end of the command. -/
def State.microStep (s : State) : State :=
  match s.run.prog[s.seq.idx]? with
  | some m => (m.prepare s).doUop (m.uop (m.prepare s))
  | none => s.finish

/-- The sequencer runs until `SEQ` is `IDLE` again, at most `fuel` steps. -/
def runToIdle : Nat → State → State
  | 0, s => s
  | fuel + 1, s => if s.seq.phase = .idle then s else runToIdle fuel s.microStep

/-- The whole command: every entry of its list and the end (rule R11, log entry 11). A list with a
cleanup in it is shorter than the micro-program it replaces. -/
def State.runCommand (s : State) : State := runToIdle (s.run.prog.length + 1) s

/-- Accepting a command (rule R31): `SEQ <- {phase, 0}`, its list and operand latched. -/
def State.accept (s : State) (ph : Phase) (prog : List MicroOp) (arg : BitVec 32) : State :=
  { s with seq := ⟨ph, 0⟩, run := ⟨prog, arg, .success⟩ }

/-- Accepting CREATE. -/
def State.acceptCreate (s : State) (n : BitVec 32) : State :=
  s.accept .create (createProgram s.cfg s.chan) n

/-- Accepting SHOW: the encoder has run before T0 is issued (rules R216, R217). -/
def State.acceptShow (s : State) : State :=
  { s with
    wave := encodeWave s.pix s.n.toNat
    q := encodeQueue s.pix s.n.toNat }.accept .showing (showProgram s.cfg (wordCount s.n.toNat)) 0#32

/-- Accepting DESTROY. -/
def State.acceptDestroy (s : State) : State := s.accept .destroy destroyProgram 0#32

end Sys2Proof.Machine
end

