-- ==== Sys2Proof/Machine/Uops.lean ====
section
/-! DEFINITION. The meanings of the seven micro-operations (`40_register_access_uops.md`): each checks what its rule
requires, and a request the rule does not admit has no step (rule R71). -/

namespace Sys2Proof.Machine

/-- What a meaning answers with. -/
abbrev Result := Host.Outcome State Fault Refusal

/-- `CHOPEN` (rule R122). -/
def execChopen (s : State) : Result :=
  if s.chan = .closed then .next s.doChopen else .fault .channelAlreadyOpen

/-- `MAP win` (rule R123). -/
def execMap (w : Window) (s : State) : Result :=
  if s.chan ≠ .opened then .fault .channelNotOpen
  else if s.mapped.get w then .fault .windowAlreadyMapped
  else .next (s.doMap w)

/-- `LD win.reg` (rules R71, R124). -/
def execLd (w : Window) (ix : BitVec 16) (s : State) : Result :=
  if s.mapped.get w = false then .fault .windowNotMapped
  else if (s.cfg.regmap.reg? w ix).isNone then .fault .noSuchRegister
  else .next (s.doLd w ix)

/-- `ST win.reg, v` (rules R71, R125). -/
def execSt (w : Window) (ix : BitVec 16) (v : Word) (s : State) : Result :=
  if s.mapped.get w = false then .fault .windowNotMapped
  else if (s.cfg.regmap.reg? w ix).isNone then .fault .noSuchRegister
  else .next (s.doSt w ix v)

/-- `WAIT t` (rule R126). -/
def execWait (t : Interval) (s : State) : Result := .next (s.doWait t)

/-- `UNMAP win` (rule R127). -/
def execUnmap (w : Window) (s : State) : Result :=
  if s.mapped.get w then .next (s.doUnmap w) else .fault .windowNotMapped

/-- `CHCLOSE` (rule R128). -/
def execChclose (s : State) : Result :=
  if s.chan ≠ .opened then .fault .channelNotOpen
  else if s.mapped = Mapped.none then .next s.doChclose
  else .fault .handlesHeld

end Sys2Proof.Machine
end

