-- ==== Sys2Proof/Machine/Life.lean ====
section
/-! DEFINITION. CREATE and DESTROY (`41_create_clock_config.md`) and SHOW (`44_show_transmitter.md`): the checks in
their order, then the whole micro-program (rule R11). -/

namespace Sys2Proof.Machine

/-- `CREATE n` (rules R141, R142): the state check, the capacity check, the micro-program. -/
def execCreate (n : BitVec 32) (s : State) : Result :=
  .next (if s.inst ≠ .unconfigured then s.raise .state
    else if s.cfg.capacity < n.toNat then s.raise .configuration
    else (s.acceptCreate n).runCommand)

/-- `DESTROY` (rule R159). -/
def execDestroy (s : State) : Result :=
  .next (if s.inst ≠ .ready then s.raise .state else s.acceptDestroy.runCommand)

/-- `SHOW` (rule R216). -/
def execShowFrame (s : State) : Result :=
  .next (if s.inst ≠ .ready then s.raise .state else s.acceptShow.runCommand)

end Sys2Proof.Machine
end

