-- ==== Sys2Proof/Machine/Pixels.lean ====
section
/-! DEFINITION. The pixel commands SETRGB, SETNAMED and GETPIX (`42_pixel_commands.md`). -/

namespace Sys2Proof.Machine

/-- The checks the three commands share, in their order (rules R172, R174): `STATE = READY`, then the index. -/
def State.whenAddressable (s : State) (ix : BitVec 32) (body : State) : State :=
  if s.inst ≠ .ready then s.raise .state
  else if s.indexValid ix then body
  else s.raise .index

/-- `SETRGB i, r, g, b` (rule R171). -/
def execSetrgb (ix : BitVec 32) (r g b : BitVec 8) (s : State) : Result :=
  .next (s.whenAddressable ix ((s.setPixel ix.toNat ⟨r, g, b⟩).respond 0#24))

/-- `SETNAMED i, name, lum` (rule R176). -/
def execSetnamed (ix : BitVec 32) (name : BitVec 8) (lum : BitVec 16) (s : State) : Result :=
  .next (s.whenAddressable ix
    (match namedColor s.cfg name with
      | some c => (s.setPixel ix.toNat (lumScale s.cfg c lum)).respond 0#24
      | none => s.raise .illegalCommand))

/-- `GETPIX i` (rule R181). -/
def execGetpix (ix : BitVec 32) (s : State) : Result :=
  .next (s.whenAddressable ix (s.respond (colorData (s.pixel ix.toNat))))

end Sys2Proof.Machine
end

