-- ==== Sys2Proof/Machine/Dispatch.lean ====
section
/-! DEFINITION. One arm per instruction. -/

namespace Sys2Proof.Machine

def exec (i : Instr) (s : State) : Host.Outcome State Fault Refusal :=
  match i with
  | .create n => Sys2Proof.Machine.execCreate n s
  | .setrgb ix r g b => Sys2Proof.Machine.execSetrgb ix r g b s
  | .setnamed ix name lum => Sys2Proof.Machine.execSetnamed ix name lum s
  | .showFrame => Sys2Proof.Machine.execShowFrame s
  | .getpix ix => Sys2Proof.Machine.execGetpix ix s
  | .destroy => Sys2Proof.Machine.execDestroy s
  | .chopen => Sys2Proof.Machine.execChopen s
  | .map win => Sys2Proof.Machine.execMap win s
  | .ld win reg => Sys2Proof.Machine.execLd win reg s
  | .st win reg val => Sys2Proof.Machine.execSt win reg val s
  | .wait t => Sys2Proof.Machine.execWait t s
  | .unmap win => Sys2Proof.Machine.execUnmap win s
  | .chclose => Sys2Proof.Machine.execChclose s

end Sys2Proof.Machine
end

