-- ==== Sys2Proof/Machine/Fetch.lean ====
section
/-! DEFINITION. Where the next instruction comes from. There is no instruction memory (rule R76): between commands
the controller takes the oldest word from the command port; while a command runs, the entry of its
micro-program at `SEQ.idx` (rule R30). -/

namespace Sys2Proof.Machine

/-- What the controller does next: run an instruction, or a move that runs none. -/
inductive Fetched where
  | instr (i : Instr) (s : State)
  | moved (s : State)
  deriving DecidableEq, Repr

/-- A word taken from the command port (rules R95, R272): a legal command runs, any other raises
`IllegalCommand`. -/
def State.takeCommand (s : State) (w : Record) : Fetched :=
  match decodeCmd w with
  | .ok i => .instr i s
  | .error _ => .moved (s.raise .illegalCommand)

/-- Between commands: the serializer gets the periods that pass, then the block takes a command, or waits when
none has arrived (rule R302). -/
def State.fetchCommand (s : State) : Fetched :=
  match s.cmdPort with
  | [] => .moved s.elapse
  | w :: rest => { s.elapse with cmdPort := rest }.takeCommand w

/-- While a command runs: the entry at `SEQ.idx`, or its end (rule R31). -/
def State.fetchMicro (s : State) : Fetched :=
  match s.run.prog[s.seq.idx]? with
  | some m => .instr (m.uop (m.prepare s)).toInstr (m.prepare s)
  | none => .moved s.finish

/-- The controller's next move. -/
def State.fetch (s : State) : Fetched :=
  if s.seq.phase = .idle then s.fetchCommand else s.fetchMicro

/-- The host presents a command word: it is the next one the port gives, with no command running. -/
def State.placeCommand (s : State) (w : Record) : State :=
  { s with seq := Seq.idle, run := Run.idle, cmdPort := w :: s.cmdPort }

/-- The sequencer stands at an entry that issues `u`, with the channel and the handles as they stand wherever a
micro-program issues it (rules R122 to R128, R143). The spec gives a bus event outside a command no meaning (rule
R71); that it is placed as the one entry of a CREATE, in the place of any command that was running, is the model's
choice (log entry 3). So the step after the event ends that CREATE (`State.finish`): where the event was not denied,
`STATE` becomes `READY` with the response 0, whatever `MAPPED` and `CHAN` hold. -/
def State.placeUop (s : State) (u : Uop) : State :=
  let t := s.accept .create [.bus u] 0#32
  match u with
  | .chopen => { t with chan := .closed }
  | .map w => { t with chan := .opened, mapped := t.mapped.set w false }
  | .ld w _ | .st w _ _ | .unmap w => { t with chan := .opened, mapped := t.mapped.set w true }
  | .wait _ => t
  | .chclose => { t with chan := .opened, mapped := Mapped.none }

/-- The word of an opcode-table row, put where the next step fetches it: a bus event as the sequencer's next
entry, a command on the command port; a word that is neither goes to the command port, which reports it. The
formats are told apart as `decodeTableWord` does (log entry 3). -/
def State.placeTableWord (s : State) (nbits w : Nat) : State :=
  match decodeUop (tableRecord nbits w) with
  | .ok u => s.placeUop u
  | .error _ => s.placeCommand (tableRecord nbits w)

end Sys2Proof.Machine
end

