-- ==== Sys2Proof/Machine/Step.lean ====
section
/-! DEFINITION. One step of the machine: the controller's next move. -/

namespace Sys2Proof.Machine

/-- Run the instruction the controller fetches, or make the move that runs none. -/
def step (s : State) : Host.Outcome State Fault Refusal :=
  match s.fetch with
  | .instr i t => exec i t
  | .moved t => .next t

/-- The state in which the next step runs the table row's instruction. -/
def State.withFetchWord (s : State) (nbits w : Nat) : State := s.placeTableWord nbits w

end Sys2Proof.Machine
end

