-- ==== Sys2Proof/Machine/Observe.lean ====
section
/-! DEFINITION. Reading an observation (rules R11, R35), for the statements: the answers a command will get, the
traces of rules R146, R150, R160 and R217 written out as the spec's tables have them, the waits a trace holds
(rules R126, R319), and the wire-bits a frame puts on the line (rule R249). No step reads any of this. -/

namespace Sys2Proof.Machine

/-- The answer the `k`-th of the coming micro-operations gets when all before it were `CHOPEN` or `MAP`. -/
def State.grantAt (s : State) (k : Nat) : Bool :=
  (s.env.grants.drop k).headD (Config.freeGrant (s.env.draws + k))

/-- The value the next `LD` returns when it is the `k`-th of the coming micro-operations. -/
def State.loadAt (s : State) (k : Nat) : Word := s.env.loads.headD (Config.freeLoad (s.env.draws + k))

/-- The wire-bit periods that pass during the coming `k` micro-operations. -/
def State.periods (s : State) (k : Nat) : Nat := (s.env.ticks.take k).sum

/-- What every completed micro-operation changes (rules R31, R120): its record joins the trace, `SEQ.idx` moves on,
and the serializer gets the periods that pass, starting from the devices `d`. -/
def State.afterUop (s : State) (rec : Record) (d : Devices) : State :=
  { s with
    tr := s.tr ++ [rec]
    seq := ⟨s.seq.phase, s.seq.idx + 1⟩
    env := ⟨s.env.grants, s.env.loads, s.env.ticks.tail, s.env.draws + 1⟩
    dev := d.serialize s.cfg (s.env.ticks.headD 0) }

/-- The sequencer turned to the cleanup of what the entries before this one acquired (rules R31, R150). -/
def State.afterDenial (s : State) : State :=
  { s with run := ⟨s.run.prog.take (s.seq.idx + 1) ++ cleanup (s.run.prog.take s.seq.idx), s.run.arg,
      .hardwareAccess⟩ }

/-- `ST win.reg, v` of a symbolic register. -/
def stInstr (p : Params) (r : Reg) (v : Word) : Instr := .st r.win (p.regmap.regField r) v

/-- The 21 bus events of a successful CREATE whose load answers `v` (rule R146). -/
def createTrace (p : Params) (v : Word) : List Instr :=
  [.chopen, .map .gpio, .map .pwm, .map .clk,
   .ld .gpio (p.regmap.regField .fsel),
   stInstr p .fsel (fselw p.regmap v),
   stInstr p .pwmctl (clkctl p.regmap true false 0), .wait .settle,
   stInstr p .dmac 0#32, .wait .settle,
   stInstr p .pwmdiv (clkdiv p.regmap p.divInt ((p.divFrac16 + 32) / 64)), .wait .settle,
   stInstr p .pwmctl (clkctl p.regmap false true p.clkSrc), .wait .settle,
   stInstr p .ctl 0#32, .wait .settle,
   stInstr p .rng 32#32, .wait .settle,
   stInstr p .sta p.regmap.errClearAll, .wait .settle,
   stInstr p .ctl (cfgWord p.regmap)]

/-- The bus events of a CREATE whose `k`-th request is the first one denied (the table of rule R150). -/
def deniedTrace : Nat → List Instr
  | 0 => [.chopen]
  | 1 => [.chopen, .map .gpio, .chclose]
  | 2 => [.chopen, .map .gpio, .map .pwm, .unmap .gpio, .chclose]
  | _ => [.chopen, .map .gpio, .map .pwm, .map .clk, .unmap .pwm, .unmap .gpio, .chclose]

/-- The bus events of SHOW for the queue `q` (rule R217). -/
def showTrace (p : Params) (q : List Word) : List Instr :=
  [stInstr p .ctl (cfgWord p.regmap), stInstr p .ctl (cfgWord p.regmap), .wait .settle,
   stInstr p .ctl (cfgClr p.regmap), stInstr p .sta p.regmap.errClearAll, .wait .settle] ++
  q.flatMap (fun v => [stInstr p .fifo v, .wait .fifoGap]) ++
  [stInstr p .ctl (cfgEn p.regmap)]

/-- The bus events of DESTROY (rule R160). -/
def destroyTrace : List Instr := [.unmap .clk, .unmap .pwm, .unmap .gpio, .chclose]

/-- The interval a record waits: 0 for every kind but `WAIT` (rule R126). -/
def waitTime (p : Params) (w : Record) : Nat :=
  match decodeUop w with
  | .ok (.wait .settle) => p.tSettle
  | .ok (.wait .fifoGap) => p.tFifoGap
  | .ok .chopen | .ok (.map _) | .ok (.ld _ _) | .ok (.st _ _ _) | .ok (.unmap _) | .ok .chclose
  | .error _ => 0

/-- The least time a trace takes: the sum of its waits (rule R319). -/
def traceTime (p : Params) (tr : List Record) : Nat := (tr.map (waitTime p)).sum

/-- The first `k` wire-bits of a frame of `n` pixels on the line (rule R249): the stream `S`, then the padding of
the last word and the padding bit, all 0. -/
def frameItems (pix : List Color) (n k : Nat) : List WireItem :=
  (List.range k).map fun b => .bit (decide (b < streamLength n) && streamBit pix b)

/-- The line at the moment SHOW's first store has stopped the serializer: a word cut in the middle leaves a
stretch without a meaning (rule R227, `93_implementation_defined.md` U2). -/
def Devices.lineAtStop (d : Devices) : List WireItem :=
  if d.pEn && d.midWord then d.line ++ [.unspecified] else d.line

/-- The number of 1 bits of a word of width `w`. -/
def ones {w : Nat} (x : BitVec w) : Nat := (List.range w).countP fun i => x.getLsbD i

end Sys2Proof.Machine
end

