-- ==== Sys2Proof/Safety.lean ====
section
/-! DEFINITION. What holds at every command boundary (rules R33, R34, R49, R51): the invariant claims are stated
with, and the terms of a safe run. -/

namespace Sys2Proof.Machine

/-- The devices as CREATE leaves them and every later command keeps them, but for the enable bit, the queue and
the wire (rules R51, R46, R317). -/
structure DevicesConfigured (p : Params) (d : Devices) : Prop where
  mode : d.pMode = true
  usef : d.pUsef = true
  rptl : d.pRptl = false
  pola : d.pPola = false
  sbit : d.pSbit = false
  rng : d.pRng = 32
  dma : d.pDma = false
  clkRun : d.clkRun = true
  clkSel : d.clkSel = p.clkSrc
  clkDiv : d.clkDiv1024 = 1024 * p.divInt + divf p.divFrac16
  pin : d.pinFunc = p.regmap.altPwm

/-- The invariant of a command boundary. `n_le`, `unconfigured` and `seq` are rule R49, `ready` is rule R33 with
R49, `pix_length` is rule R21, `queue_le` rule R241, `run` says that no command is running (rule R11),
`stopped` that a stopped serializer holds no word (log entry 9), and `devices` is rule R51. -/
structure Inv (s : State) : Prop where
  cfg : s.cfg.wf = true
  pix_length : s.pix.length = s.cfg.capacity
  n_le : s.n.toNat ≤ s.cfg.capacity
  unconfigured : s.inst = .unconfigured → s.n = 0#32 ∧ s.mapped = Mapped.none ∧ s.chan = .closed
  ready : s.inst = .ready → s.mapped = Mapped.all ∧ s.chan = .opened
  seq : s.seq = Seq.idle
  run : s.run = Run.idle
  queue_le : s.dev.queue.length ≤ s.cfg.qdepth
  stopped : s.dev.pEn = false → s.dev.shift = none
  devices : s.inst = .ready → DevicesConfigured s.cfg s.dev

/-- The machine goes on: a step answers a next state. -/
def Safe (s : State) : Prop := ∃ t, step s = .next t

/-- The wire-level contract is not void (rule R276). -/
def WireSound (s : State) : Prop := s.dev.envFault = none

end Sys2Proof.Machine
end

