-- ==== Sys2Proof/Certificates/Slice0/Obligations.lean ====
section
/-! DEFINITION. The statements for the provers. Every one quantifies over the whole state, so over every
configuration, every answer of the environment and every schedule of the serializer. -/

open Sys2Proof Sys2Proof.Machine

/-! ### Encodings -/

/-- Words written out from the tables of R91, R92 and R100 decode to the instructions they stand for, one of each
family and each port. -/
def Obligations.WrittenOutWordsDecode : Prop :=
  decodeCmd 0b0001_0000_000000000000000000000000_00000000000000000000000000000111#64 = .ok (.create 7#32) ∧
  decodeCmd 0b0010_0000_000001010000011000000111_00000000000000000000000000000011#64
    = .ok (.setrgb 3#32 5#8 6#8 7#8) ∧
  decodeCmd 0b0011_0000_000000011111111100000000_00000000000000000000000000000000#64
    = .ok (.setnamed 0#32 1#8 0xFF00#16) ∧
  decodeCmd 0b0100_0000_000000000000000000000000_00000000000000000000000000000000#64 = .ok .showFrame ∧
  decodeUop 0b0010_0011_00000000_0000000000000000_00000000000000000000000000000000#64 = .ok (.map .clk) ∧
  decodeUop 0b0100_0010_00000000_0000000000000110_10000000000000000000000000000001#64
    = .ok (.st .pwm 6#16 0x80000001#32) ∧
  decodeUop 0b0101_0000_00000000_0000000000000010_00000000000000000000000000000000#64 = .ok (.wait .fifoGap)

/-- Decoding what the encoder gives, on the port of the instruction's format, gives the instruction back, for
every instruction and every value of every operand (R91, R92, R94, R100). -/
def Obligations.EncodedInstructionDecodesToItself : Prop :=
  ∀ i : Instr, decodePort i.port (encode i) = .ok i

/-- A word has at most one reading on each port, and no bit of it is dropped: encoding what was decoded gives the
word back. -/
def Obligations.DecodedWordReencodesToItself : Prop :=
  ∀ (p : Port) (w : Record) (i : Instr), decodePort p w = .ok i → i.port = p ∧ encode i = w

/-- R96, which the spec marks as derived: a CMD word selects exactly one row of R92's match and mask table, and
is then a command, or it selects none and is illegal. -/
def Obligations.LegalCommandMatchesExactlyOneRow : Prop :=
  ∀ w : Record,
    ((∃ i, decodeCmd w = .ok i) ∧ (cmdRows.filter fun r => r.selects w).length = 1) ∨
    ((∃ e, decodeCmd w = .error e) ∧ (cmdRows.filter fun r => r.selects w).length = 0)

/-- R95: which CMD words are illegal, and what the block does with one: `IllegalCommand`, no state but `ERR`
changed, no bus event. (Before it takes a word the block lets the serializer's periods pass.) -/
def Obligations.IllegalWordRaisesIllegalCommand : Prop :=
  (∀ w : Record, (∃ e, decodeCmd w = .error e) ↔
    (w.extractLsb' 60 4 = 0#4 ∨ 7 ≤ (w.extractLsb' 60 4).toNat ∨ w.extractLsb' 56 4 ≠ 0#4 ∨
      ((w.extractLsb' 60 4 = 1#4 ∨ w.extractLsb' 60 4 = 5#4) ∧ w.extractLsb' 32 24 ≠ 0#24) ∨
      ((w.extractLsb' 60 4 = 4#4 ∨ w.extractLsb' 60 4 = 6#4) ∧
        (w.extractLsb' 32 24 ≠ 0#24 ∨ w.extractLsb' 0 32 ≠ 0#32)))) ∧
  (∀ (s : State) (w : Record) (rest : List Record) (e : DecodeError),
    s.seq = Seq.idle → s.run = Run.idle → s.cmdPort = w :: rest → decodeCmd w = .error e →
    step s = .next { s with
      err := 5#4
      rsp := s.rsp ++ [0x50000000#32]
      cmdPort := rest
      env := { s.env with ticks := s.env.ticks.tail }
      dev := s.dev.serialize s.cfg (s.env.ticks.headD 0) })

/-- R99: an index or a count of any command that has one is written as any integer from `-2^31` to `2^32 - 1` and
stands in `IDX` modulo `2^32`, with the other fields as written; a negative one reads as `2^31` or more; an operand
outside its range has no word; and the word of a written command decodes to that command. -/
def Obligations.WrittenIntegersWrapIntoTheIndexField : Prop :=
  (∀ i : Int, -2147483648 ≤ i → i < 4294967296 →
    ∃ ix : BitVec 32, (ix.toNat : Int) = i % 4294967296 ∧ (i < 0 → 2147483648 ≤ ix.toNat) ∧
      (assemble (.create i)).map decodeCmd = some (.ok (.create ix)) ∧
      (assemble (.getpix i)).map decodeCmd = some (.ok (.getpix ix)) ∧
      (∀ r g b : BitVec 8, (assemble (.setrgb i r.toNat g.toNat b.toNat)).map decodeCmd =
        some (.ok (.setrgb ix r g b))) ∧
      (∀ (name : BitVec 8) (lum : BitVec 16), (assemble (.setnamed i name.toNat lum.toNat)).map decodeCmd =
        some (.ok (.setnamed ix name lum)))) ∧
  (∀ (i : Int) (r g b name lum : Nat), i < -2147483648 ∨ 4294967296 ≤ i →
    assemble (.create i) = none ∧ assemble (.getpix i) = none ∧ assemble (.setrgb i r g b) = none ∧
    assemble (.setnamed i name lum) = none) ∧
  (∀ (i : Int) (r g b : Nat), 256 ≤ r ∨ 256 ≤ g ∨ 256 ≤ b → assemble (.setrgb i r g b) = none) ∧
  (∀ (i : Int) (name lum : Nat), 256 ≤ name ∨ 65536 ≤ lum → assemble (.setnamed i name lum) = none) ∧
  (∀ (c : Source) (w : Record), assemble c = some w →
    ∃ i, decodeCmd w = .ok i ∧ assembleInstr c = some i)

/-! ### The step -/

/-- Between commands a step runs the command the port's oldest word decodes to; while a command runs, it runs the
bus event of the micro-program's entry at `SEQ.idx`, after R144's initialisation before U4; with the list
exhausted it ends the command; and with no command it waits while the serializer goes on. -/
def Obligations.StepRunsDecodedInstruction : Prop :=
  (∀ (s : State) (w : Record) (rest : List Record) (i : Instr),
    s.seq.phase = .idle → s.cmdPort = w :: rest → decodePort .cmd w = .ok i →
    step s = exec i { s.elapse with cmdPort := rest }) ∧
  (∀ (s : State) (m : MicroOp), s.seq.phase ≠ .idle → s.run.prog[s.seq.idx]? = some m →
    step s = exec (m.uop (m.prepare s)).toInstr (m.prepare s)) ∧
  (∀ s : State, s.seq.phase ≠ .idle → s.run.prog[s.seq.idx]? = none → step s = .next s.finish) ∧
  (∀ s : State, s.seq.phase = .idle → s.cmdPort = [] → step s = .next { s with
    env := { s.env with ticks := s.env.ticks.tail }
    dev := s.dev.serialize s.cfg (s.env.ticks.headD 0) })

/-- The word of a table row is placed where the next step runs it, in every state; a bus event finds the channel
and the handles as it needs them (log entry 3), nothing else the host can read is different there, and a
well-formed instruction answers a next state. -/
def Obligations.PlacedTableWordRunsNext : Prop :=
  ∀ (s : State) (nbits w : Nat) (i : Instr), decodeTableWord nbits w = some i →
    ∃ t, step (s.withFetchWord nbits w) = exec i t ∧
      t.cfg = s.cfg ∧ t.pix = s.pix ∧ t.n = s.n ∧ t.inst = s.inst ∧ t.err = s.err ∧ t.wave = s.wave ∧
      t.q = s.q ∧ t.fselV = s.fselV ∧ t.tr = s.tr ∧ t.cmdPort = s.cmdPort ∧ t.rsp = s.rsp ∧
      (i.port = .cmd → t.chan = s.chan ∧ t.mapped = s.mapped) ∧
      (i.wf s.cfg.regmap = true → ∃ u, exec i t = .next u)

/-! ### Reset and the invariant of command boundaries -/

/-- R50: the values the spec gives for reset. -/
def Obligations.ResetLeavesSpecValues : Prop :=
  State.reset.inst = .unconfigured ∧ State.reset.n = 0#32 ∧ State.reset.err = 0#4 ∧
  State.reset.chan = .closed ∧ (∀ w, State.reset.mapped.get w = false) ∧
  State.reset.seq = ⟨.idle, 0⟩ ∧ State.reset.tr = []

/-- The invariant of command boundaries holds at reset. The parameters and the device values reset starts from are
the model's choice (log entries 1, 2, 4, 10). -/
def Obligations.ResetMeetsInvariant : Prop := Inv State.reset

/-- R33, R49, R51 (R49 the spec marks as derived; the clause `stopped` is log entry 9): every step from a state
that meets the invariant keeps it. -/
def Obligations.StepKeepsInvariant : Prop :=
  ∀ s t : State, Inv s → step s = .next t → Inv t

/-- From every state that meets the invariant the machine takes a step: it never stops with a fault or a refusal,
whatever word stands on the port and whatever the environment answers. -/
def Obligations.NoReachableStepStops : Prop := ∀ s : State, Inv s → Safe s

/-- R36: the parameters are constants: no instruction and no step changes one. -/
def Obligations.ParametersNeverChange : Prop :=
  (∀ (i : Instr) (s t : State), exec i s = .next t → t.cfg = s.cfg) ∧
  (∀ s t : State, step s = .next t → t.cfg = s.cfg)

/-! ### CREATE -/

/-- R141, R146: CREATE with every request granted, from every state that meets the invariant: the 21 bus events in
order, `N`, `PIX`, `STATE`, `CHAN`, `MAPPED`, `ERR` and the response, and nothing else changed but the devices
(`CreateLeavesDevicesConfigured` says what they hold). Of the devices it says what no store of CREATE does: nothing is
queued and nothing taken back from the line; that the stopped serializer holds no word is the model's choice (log
entry 9). That `FSEL_V` stands after CREATE is the model's choice as well (log entry 27; nothing reads it). -/
def Obligations.CreateCompletes : Prop :=
  ∀ (s : State) (n : BitVec 32), Inv s → s.inst = .unconfigured → n.toNat ≤ s.cfg.capacity →
    (∀ k < 4, s.grantAt k = true) →
    ∃ dev, dev.queue <:+ s.dev.queue ∧ s.dev.line <+: dev.line ∧ dev.shift = none ∧
      exec (.create n) s = .next { s with
      n := n
      pix := List.replicate s.cfg.capacity ⟨0#8, 0#8, 0#8⟩
      inst := .ready
      err := 0#4
      chan := .opened
      mapped := ⟨true, true, true⟩
      fselV := s.loadAt 4
      tr := s.tr ++ (createTrace s.cfg (s.loadAt 4)).map encode
      rsp := s.rsp ++ [0#32]
      env := ⟨s.env.grants.drop 4, s.env.loads.tail, s.env.ticks.drop 21, s.env.draws + 21⟩
      dev := dev }

/-- R51: the devices after a successful CREATE: the clock runs from `CLK_SRC` at the programmed divisor, DMA is
off, the range is 32, no error flag is pending, `CTL` holds `CFGWORD` and the pin is on the PWM function; and the
instance it reports: `STATE`, `N`, `PIX`, the three windows and the channel. -/
def Obligations.CreateLeavesDevicesConfigured : Prop :=
  ∀ (s : State) (n : BitVec 32), Inv s → s.inst = .unconfigured → n.toNat ≤ s.cfg.capacity →
    (∀ k < 4, s.grantAt k = true) →
    ∃ t, exec (.create n) s = .next t ∧
      t.inst = .ready ∧ t.n = n ∧ t.pix = List.replicate s.cfg.capacity ⟨0#8, 0#8, 0#8⟩ ∧
      t.mapped = ⟨true, true, true⟩ ∧ t.chan = .opened ∧
      t.dev.clkRun = true ∧ t.dev.clkSel = s.cfg.clkSrc ∧
      t.dev.clkDiv1024 = 1024 * s.cfg.divInt + (s.cfg.divFrac16 + 32) / 64 ∧
      t.dev.pDma = false ∧ t.dev.pRng = 32 ∧ t.dev.pErr = 0#32 ∧
      t.dev.pEn = false ∧ t.dev.pMode = true ∧ t.dev.pUsef = true ∧
      t.dev.pRptl = false ∧ t.dev.pPola = false ∧ t.dev.pSbit = false ∧
      t.dev.pinFunc = s.cfg.regmap.altPwm

/-- R150: the first denied request of CREATE, the `k`-th: the bus events of the table, `HardwareAccessError`, and
afterwards no handle, a closed channel and `STATE`, `N`, `PIX` as before; the devices see no store. -/
def Obligations.DeniedCreateCleansUp : Prop :=
  ∀ (s : State) (n : BitVec 32) (k : Nat), Inv s → s.inst = .unconfigured →
    n.toNat ≤ s.cfg.capacity → k < 4 → (∀ j < k, s.grantAt j = true) → s.grantAt k = false →
    exec (.create n) s = .next { s with
      err := 3#4
      rsp := s.rsp ++ [0x30000000#32]
      chan := .closed
      mapped := ⟨false, false, false⟩
      tr := s.tr ++ (deniedTrace k).map encode
      env := ⟨s.env.grants.drop (k + 1), s.env.loads, s.env.ticks.drop (deniedTrace k).length,
        s.env.draws + (deniedTrace k).length⟩
      dev := s.dev.serialize s.cfg (s.periods (deniedTrace k).length) }

/-- R267, with the state check before it (R142): CREATE raises `ConfigurationError` exactly when no instance
exists and the count exceeds the capacity, and then nothing but `ERR` changes and there is no bus event. -/
def Obligations.OversizedCreateRaisesConfigurationError : Prop :=
  ∀ (s : State) (n : BitVec 32), Inv s →
    (∃ t, exec (.create n) s = .next t ∧
      (t.err = 1#4 ↔ s.inst = .unconfigured ∧ s.cfg.capacity < n.toNat)) ∧
    (s.inst = .unconfigured → s.cfg.capacity < n.toNat →
      exec (.create n) s = .next { s with err := 1#4, rsp := s.rsp ++ [0x10000000#32] })

/-- R270: a command that the current `STATE` does not accept raises `StateError`: nothing but `ERR` changes and
there is no bus event. Every command has its case. -/
def Obligations.WrongLifeCycleRaisesStateError : Prop :=
  ∀ (s : State) (i : Instr), s.seq = Seq.idle → s.run = Run.idle →
    ((s.inst = .ready ∧ ∃ n, i = .create n) ∨
     (s.inst = .unconfigured ∧ (i = .showFrame ∨ i = .destroy ∨ (∃ ix, i = .getpix ix) ∨
       (∃ ix r g b, i = .setrgb ix r g b) ∨ (∃ ix name lum, i = .setnamed ix name lum)))) →
    exec i s = .next { s with err := 4#4, rsp := s.rsp ++ [0x40000000#32] }

/-! ### DESTROY -/

/-- R159, R160: DESTROY in READY: the four bus events, `N = 0`, `STATE = UNCONFIGURED`, no handle and a closed
channel; it issues no store, so the devices change only by the serializer's own periods. -/
def Obligations.DestroyCompletes : Prop :=
  ∀ s : State, s.seq = Seq.idle → s.run = Run.idle → s.inst = .ready →
    exec .destroy s = .next { s with
      n := 0#32
      inst := .unconfigured
      err := 0#4
      chan := .closed
      mapped := ⟨false, false, false⟩
      tr := s.tr ++ destroyTrace.map encode
      rsp := s.rsp ++ [0#32]
      env := ⟨s.env.grants, s.env.loads, s.env.ticks.drop 4, s.env.draws + 4⟩
      dev := s.dev.serialize s.cfg (s.periods 4) }

/-! ### Pixel commands -/

/-- R171: SETRGB on a valid index: entry `i` becomes `{r, g, b}`, the response is 0, nothing else changes. -/
def Obligations.SetrgbWritesPixel : Prop :=
  ∀ (s : State) (ix : BitVec 32) (r g b : BitVec 8), s.seq = Seq.idle → s.run = Run.idle →
    s.inst = .ready → ix.toNat < s.n.toNat →
    exec (.setrgb ix r g b) s = .next { s with
      pix := s.pix.set ix.toNat ⟨r, g, b⟩, err := 0#4, rsp := s.rsp ++ [0#32] }

/-- R176: SETNAMED on a valid index, for every value of the two parameters: a known name writes the scaled colour,
an unknown one raises `IllegalCommand` and leaves the buffer unchanged. -/
def Obligations.SetnamedWritesScaledColour : Prop :=
  ∀ (s : State) (ix : BitVec 32) (name : BitVec 8) (lum : BitVec 16), s.seq = Seq.idle →
    s.run = Run.idle → s.inst = .ready → ix.toNat < s.n.toNat →
    (∀ c, namedColor s.cfg name = some c →
      exec (.setnamed ix name lum) s = .next { s with
        pix := s.pix.set ix.toNat (lumScale s.cfg c lum), err := 0#4, rsp := s.rsp ++ [0#32] }) ∧
    (namedColor s.cfg name = none →
      exec (.setnamed ix name lum) s = .next { s with err := 5#4, rsp := s.rsp ++ [0x50000000#32] })

/-- R181: GETPIX on a valid index answers `r ++ g ++ b` of the entry and changes nothing but `ERR`. -/
def Obligations.GetpixAnswersPixel : Prop :=
  ∀ (s : State) (ix : BitVec 32), Inv s → s.inst = .ready → ix.toNat < s.n.toNat →
    ∃ c, s.pix[ix.toNat]? = some c ∧
      exec (.getpix ix) s = .next { s with
        err := 0#4, rsp := s.rsp ++ [0#8 ++ c.r ++ c.g ++ c.b] }

/-- R268, with the state check before it (R174): the three indexed commands raise `IndexError` exactly when an
instance exists and the index is not in `[0, N)`, and then nothing but `ERR` changes and there is no bus event. -/
def Obligations.InvalidIndexRaisesIndexError : Prop :=
  ∀ (s : State) (ix : BitVec 32) (i : Instr), s.seq = Seq.idle → s.run = Run.idle →
    (i = .getpix ix ∨ (∃ r g b, i = .setrgb ix r g b) ∨ (∃ name lum, i = .setnamed ix name lum)) →
    (∃ t, exec i s = .next t ∧ (t.err = 2#4 ↔ s.inst = .ready ∧ ¬ ix.toNat < s.n.toNat)) ∧
    (s.inst = .ready → ¬ ix.toNat < s.n.toNat →
      exec i s = .next { s with err := 2#4, rsp := s.rsp ++ [0x20000000#32] })

/-- R93: a negative index or count in two's complement is 2^31 or more, above every legal `N` and `C`, and fails
the same check as a too-large one. -/
def Obligations.NegativeOperandFailsTheSameCheck : Prop :=
  ∀ (s : State) (x : BitVec 32), Inv s → x.toInt < 0 →
    2147483648 ≤ x.toNat ∧ s.n.toNat < x.toNat ∧ s.cfg.capacity < x.toNat ∧
    (s.inst = .unconfigured → ∃ t, exec (.create x) s = .next t ∧ t.err = 1#4) ∧
    (s.inst = .ready → ∀ i, (i = .getpix x ∨ (∃ r g b, i = .setrgb x r g b) ∨
      (∃ name lum, i = .setnamed x name lum)) → ∃ t, exec i s = .next t ∧ t.err = 2#4 ∧ t.pix = s.pix)

/-- R175, which the spec marks as derived, and the source's first testable property (R171): SETRGB of a valid index
stores the channels as given, GETPIX of it answers them, and every other entry is as before. -/
def Obligations.PixelReadsBackAsSet : Prop :=
  ∀ (s : State) (ix : BitVec 32) (r g b : BitVec 8), Inv s → s.inst = .ready →
    ix.toNat < s.n.toNat →
    ∃ t u, exec (.setrgb ix r g b) s = .next t ∧ exec (.getpix ix) t = .next u ∧
      u.rsp = s.rsp ++ [0#32, 0#8 ++ r ++ g ++ b] ∧
      t.pix[ix.toNat]? = some ⟨r, g, b⟩ ∧ ∀ j, j ≠ ix.toNat → t.pix[j]? = s.pix[j]?

/-- R173: a pixel command that raises any error leaves `PIX`, `N` and `STATE` unchanged. -/
def Obligations.FailedPixelCommandLeavesBuffer : Prop :=
  ∀ (s : State) (i : Instr),
    ((∃ ix, i = .getpix ix) ∨ (∃ ix r g b, i = .setrgb ix r g b) ∨
      (∃ ix name lum, i = .setnamed ix name lum)) →
    ∃ t, exec i s = .next t ∧ (t.err ≠ 0#4 → t.pix = s.pix ∧ t.n = s.n ∧ t.inst = s.inst)

/-! ### SHOW -/

/-- R216, R217: SHOW in READY: the encoder's words, the `7 + 2 * M` bus events in order, the response 0; `PIX`,
`N`, `STATE` and everything but the devices is unchanged. It needs no room in the queue (R226). That `WAVE` and `Q`
stand after SHOW is the model's choice (log entry 27; nothing reads them). -/
def Obligations.ShowCompletes : Prop :=
  ∀ s : State, s.seq = Seq.idle → s.run = Run.idle → s.inst = .ready →
    ∃ dev, exec .showFrame s = .next { s with
      wave := encodeWave s.pix s.n.toNat
      q := encodeQueue s.pix s.n.toNat
      err := 0#4
      tr := s.tr ++ (showTrace s.cfg (encodeQueue s.pix s.n.toNat)).map encode
      rsp := s.rsp ++ [0#32]
      env := ⟨s.env.grants, s.env.loads, s.env.ticks.drop (7 + 2 * wordCount s.n.toNat),
        s.env.draws + (7 + 2 * wordCount s.n.toNat)⟩
      dev := dev }

/-- R249, which the spec marks as derived: with `M(N) <= QDEPTH` and no environment fault, from SHOW's enable
store on the line gains exactly the stream `S`, then the padding of the last word, then the padding bit 0, in
stream order and without a gap, for every number of wire-bit periods. What the line holds when SHOW stops a frame on
its way (`lineAtStop`: a word cut in the middle is dropped, its stretch marked) is the model's choice (log entry 9). -/
def Obligations.ShowPutsStreamOnTheLine : Prop :=
  ∀ s : State, Inv s → s.inst = .ready → wordCount s.n.toNat ≤ s.cfg.qdepth → WireSound s →
    ∃ t, exec .showFrame s = .next t ∧ WireSound t ∧
      ∀ j, (t.dev.serialize t.cfg j).line =
        s.dev.lineAtStop ++ frameItems s.pix s.n.toNat
          ((s.env.ticks.drop (6 + 2 * wordCount s.n.toNat)).headD 0 + j)

/-- R220, R222: SHOW leaves the peripheral enabled with CREATE's configuration, and with a frame that fits the
queue no error flag is pending (which events set one is log entry 15). -/
def Obligations.ShowLeavesPeripheralEnabled : Prop :=
  ∀ s : State, Inv s → s.inst = .ready →
    ∃ t, exec .showFrame s = .next t ∧ t.dev.pEn = true ∧ DevicesConfigured s.cfg t.dev ∧
      (wordCount s.n.toNat ≤ s.cfg.qdepth → t.dev.pErr = 0#32)

/-- R226, R243: a frame longer than the queue: SHOW still completes with the response 0, and the run is marked with
the environment fault. -/
def Obligations.OverlongFrameMarksTheRun : Prop :=
  ∀ s : State, Inv s → s.inst = .ready → s.cfg.qdepth < wordCount s.n.toNat →
    ∃ t, exec .showFrame s = .next t ∧ t.err = 0#4 ∧ t.rsp = s.rsp ++ [0#32] ∧
      t.dev.envFault = some .queueOverflow

/-- R201: two SHOWs with no command between them append two identical runs of records. -/
def Obligations.RepeatedShowRepeatsTrace : Prop :=
  ∀ s : State, Inv s → s.inst = .ready →
    ∃ t u l, exec .showFrame s = .next t ∧ exec .showFrame t = .next u ∧
      t.tr = s.tr ++ l ∧ u.tr = s.tr ++ l ++ l ∧ l.length = 7 + 2 * wordCount s.n.toNat

/-! ### The encoder -/

/-- R199: `bitrev32(x)[i] = x[31 - i]`, an involution, with the spec's examples. -/
def Obligations.BitReversalIsInvolution : Prop :=
  (∀ (x : Word) (i : Nat), i < 32 → (bitrev32 x).getLsbD i = x.getLsbD (31 - i)) ∧
  (∀ x : Word, bitrev32 (bitrev32 x) = x) ∧
  bitrev32 0x00000001#32 = 0x80000000#32 ∧ bitrev32 0x12345678#32 = 0x1E6A2C48#32 ∧
  bitrev32 0x92492492#32 = 0x49249249#32 ∧ bitrev32 0#32 = 0#32 ∧
  bitrev32 0xFFFFFFFF#32 = 0xFFFFFFFF#32

/-- R197: the word count, its second form, its values for 0 to 8 pixels, and that the encoder gives so many
words. -/
def Obligations.WordCountIsCeiling : Prop :=
  (∀ n, 72 * n ≤ 32 * wordCount n ∧ 32 * wordCount n < 72 * n + 32) ∧
  (∀ n, wordCount n = (9 * n + 3) / 4) ∧
  (∀ pix n, (encodeWave pix n).length = wordCount n ∧ (encodeQueue pix n).length = wordCount n) ∧
  (List.range 9).map wordCount = [0, 3, 5, 7, 9, 12, 14, 16, 18]

/-- R200, which the spec marks as derived: read from bit 31 down, `Q[w]` spells the stream positions `32w` to
`32w + 31`, 0 past the end. -/
def Obligations.QueueSpellsStream : Prop :=
  ∀ (pix : List Color) (n w i : Nat), w < wordCount n → i < 32 →
    ∃ v, (encodeQueue pix n)[w]? = some v ∧
      v.getLsbD (31 - i) = (decide (32 * w + i < 72 * n) && streamBit pix (32 * w + i))

/-- R191, R192, R193: pixel `p`'s 72 stream positions are the symbols `(1, d, 0)` of its green, red and blue bits,
each from bit 7 down. -/
def Obligations.StreamSerialisesGreenRedBlue : Prop :=
  ∀ (pix : List Color) (p j : Nat) (c : Color), pix[p]? = some c → j < 24 →
    streamBit pix (72 * p + 3 * j) = true ∧
    streamBit pix (72 * p + 3 * j + 1) =
      (if j < 8 then c.g.getLsbD (7 - j) else if j < 16 then c.r.getLsbD (15 - j)
        else c.b.getLsbD (23 - j)) ∧
    streamBit pix (72 * p + 3 * j + 2) = false

/-- R206, which the spec marks as derived: the fixed positions of the stream, its number of 1 bits, that no
three consecutive wire-bits are equal, and the repeating pattern of an all-zero buffer. -/
def Obligations.StreamInvariants : Prop :=
  (∀ pix b, b % 3 = 0 → streamBit pix b = true) ∧
  (∀ pix b, b % 3 = 2 → streamBit pix b = false) ∧
  (∀ (pix : List Color) (n : Nat), n ≤ pix.length →
    ((encodeQueue pix n).map ones).sum = 24 * n + ((pix.take n).map fun c => ones (pixelValue c)).sum) ∧
  (∀ pix b, ¬ (streamBit pix b = streamBit pix (b + 1) ∧ streamBit pix (b + 1) = streamBit pix (b + 2))) ∧
  (∀ (m b : Nat), streamBit (List.replicate m ⟨0#8, 0#8, 0#8⟩) b = decide (b % 3 = 0))

/-- R207: the source's worked example, one pixel of red 5; its words the spec marks as derived. -/
def Obligations.WorkedExampleEncodes : Prop :=
  pixelValue ⟨5#8, 0#8, 0#8⟩ = 0x000500#24 ∧
  (List.range 24).map (fun i => streamBit [⟨5#8, 0#8, 0#8⟩] (24 + i)) =
    [true, false, false, true, false, false, true, false, false, true, false, false,
     true, false, false, true, true, false, true, false, false, true, true, false] ∧
  encodeWave [⟨5#8, 0#8, 0#8⟩] 1 = [0x49249249#32, 0x92496592#32, 0x00000024#32] ∧
  encodeQueue [⟨5#8, 0#8, 0#8⟩] 1 = [0x92492492#32, 0x49A69249#32, 0x24000000#32]

/-! ### Micro-operations -/

/-- R122: `CHOPEN` with the channel closed, under both answers. -/
def Obligations.ChopenOpensChannelWhenGranted : Prop :=
  ∀ s : State, s.chan = .closed →
    exec .chopen s = .next
      (if s.grantAt 0 then
        { s.afterUop 0x1000000000000000#64 s.dev with
          chan := .opened
          env := ⟨s.env.grants.tail, s.env.loads, s.env.ticks.tail, s.env.draws + 1⟩ }
      else
        { s.afterDenial.afterUop 0x1000000000000000#64 s.dev with
          env := ⟨s.env.grants.tail, s.env.loads, s.env.ticks.tail, s.env.draws + 1⟩ })

/-- R123: `MAP win` with the channel open and the window not mapped, under both answers. -/
def Obligations.MapEstablishesHandleWhenGranted : Prop :=
  ∀ (s : State) (w : Window), s.chan = .opened → s.mapped.get w = false →
    ∃ rec, (w = .gpio → rec = 0x2100000000000000#64) ∧ (w = .pwm → rec = 0x2200000000000000#64) ∧
      (w = .clk → rec = 0x2300000000000000#64) ∧
      (s.grantAt 0 = true → ∃ t, exec (.map w) s = .next t ∧
        t = { s.afterUop rec s.dev with
          mapped := t.mapped
          env := ⟨s.env.grants.tail, s.env.loads, s.env.ticks.tail, s.env.draws + 1⟩ } ∧
        ∀ w', t.mapped.get w' = if w' = w then true else s.mapped.get w') ∧
      (s.grantAt 0 = false → exec (.map w) s = .next
        { s.afterDenial.afterUop rec s.dev with
          env := ⟨s.env.grants.tail, s.env.loads, s.env.ticks.tail, s.env.draws + 1⟩ })

/-- R124: `LD win.reg` of a register of a mapped window: the event, and the environment's answer, whatever it is,
in the load latch; nothing else. R32 gives the latch to the load of `GPIO.FSEL`; that the value of a load of any
other register goes there is the model's choice (log entry 17). -/
def Obligations.LdReturnsEnvironmentsAnswer : Prop :=
  ∀ (s : State) (r : Reg), s.cfg.wf = true → s.mapped.get r.win = true →
    exec (.ld r.win (s.cfg.regmap.regField r)) s = .next
      { s.afterUop (encode (.ld r.win (s.cfg.regmap.regField r))) s.dev with
        fselV := s.loadAt 0
        env := ⟨s.env.grants, s.env.loads.tail, s.env.ticks.tail, s.env.draws + 1⟩ }

/-- R125, R242: `ST win.reg, v` of a register of a mapped window: the event with its value, and the device of that
register takes the store; nothing else of the controller changes. -/
def Obligations.StReachesItsDevice : Prop :=
  ∀ (s : State) (r : Reg) (v : Word), s.cfg.wf = true → s.mapped.get r.win = true →
    exec (.st r.win (s.cfg.regmap.regField r) v) s = .next
      (s.afterUop (encode (.st r.win (s.cfg.regmap.regField r) v)) (s.dev.store s.cfg r v s.env.draws))

/-- R126: `WAIT` is the event alone, in every state. -/
def Obligations.WaitIsAnEventAlone : Prop :=
  ∀ s : State,
    exec (.wait .settle) s = .next (s.afterUop 0x5000000100000000#64 s.dev) ∧
    exec (.wait .fifoGap) s = .next (s.afterUop 0x5000000200000000#64 s.dev)

/-- R127, R128: `UNMAP` of a mapped window and `CHCLOSE` of an open channel with no handle held. -/
def Obligations.UnmapAndChcloseRelease : Prop :=
  (∀ (s : State) (w : Window), s.mapped.get w = true →
    ∃ t, exec (.unmap w) s = .next t ∧
      t = { s.afterUop (encode (.unmap w)) s.dev with mapped := t.mapped } ∧
      ∀ w', t.mapped.get w' = if w' = w then false else s.mapped.get w') ∧
  (∀ s : State, s.chan = .opened → (∀ w, s.mapped.get w = false) →
    exec .chclose s = .next { s.afterUop 0x7000000000000000#64 s.dev with chan := .closed })

/-- R121, which the spec marks as derived: whatever state a micro-operation runs in, it writes neither `ERR` nor
`PIX`, `N`, `WAVE` or `Q`; only a denied `CHOPEN` or `MAP` changes the code the command will respond with; none
issues a response or changes `STATE` or the command port. -/
def Obligations.MicroOperationsKeepHostState : Prop :=
  ∀ (i : Instr) (s t : State), i.port = .uop → exec i s = .next t →
    t.err = s.err ∧ t.pix = s.pix ∧ t.n = s.n ∧ t.wave = s.wave ∧ t.q = s.q ∧
    t.rsp = s.rsp ∧ t.inst = s.inst ∧ t.cmdPort = s.cmdPort ∧
    (t.run.code = s.run.code ∨
      t.run.code = .hardwareAccess ∧ (i = .chopen ∨ ∃ w, i = .map w) ∧ s.grantAt 0 = false)

/-- R71, in a sentence the spec marks as derived, and the `require` lines of R122 to R128: a request that is not
admitted has no step. The names of the stops and the order of the checks (the handle before the register, the channel
before the handle) are the model's choice (log entry 26). -/
def Obligations.UnadmittedRequestIsStuck : Prop :=
  ∀ s : State,
    (s.chan = .opened → exec .chopen s = .fault .channelAlreadyOpen) ∧
    (∀ w, s.chan = .closed → exec (.map w) s = .fault .channelNotOpen) ∧
    (∀ w, s.chan = .opened → s.mapped.get w = true → exec (.map w) s = .fault .windowAlreadyMapped) ∧
    (∀ w ix v, s.mapped.get w = false →
      exec (.ld w ix) s = .fault .windowNotMapped ∧ exec (.st w ix v) s = .fault .windowNotMapped ∧
      exec (.unmap w) s = .fault .windowNotMapped) ∧
    (∀ w ix v, s.mapped.get w = true → (∀ r : Reg, r.win = w → s.cfg.regmap.index r ≠ ix.toNat) →
      exec (.ld w ix) s = .fault .noSuchRegister ∧ exec (.st w ix v) s = .fault .noSuchRegister) ∧
    (s.chan = .closed → exec .chclose s = .fault .channelNotOpen) ∧
    (∀ w, s.chan = .opened → s.mapped.get w = true → exec .chclose s = .fault .handlesHeld)

/-! ### Register values and the devices -/

/-- R152: `DIVF` is `f * 1024` rounded with ties up, a number from 0 to 1024, with the spec's corner values. -/
def Obligations.DivisorFractionRounds : Prop :=
  (∀ f, f < 65536 → divf f ≤ 1024 ∧ 64 * divf f ≤ f + 32 ∧ f + 32 < 64 * (divf f + 1)) ∧
  divf 0 = 0 ∧ divf 31 = 0 ∧ divf 32 = 1 ∧ divf 32768 = 512 ∧ divf 65503 = 1023 ∧
  (∀ f, 65504 ≤ f → f < 65536 → divf f = 1024)

/-- R45, R107: `FSELW` puts `ALT_PWM` into the pin's field and keeps every other bit. -/
def Obligations.PinFunctionStoreKeepsOtherBits : Prop :=
  ∀ (m : RegMap) (v : Word), m.wf = true →
    readField m.fselShift m.fselW (fselw m v) = m.altPwm ∧
    (∀ i, i < m.fselShift ∨ m.fselShift + m.fselW ≤ i → (fselw m v).getLsbD i = v.getLsbD i) ∧
    fselw m (fselw m v) = fselw m v

/-- R244, R245, R246, R251, R252, R67: what each store of the micro-programs makes of the devices, whole, for every
layout that meets R101 to R105: the fields of its own register and nothing else; what a stop by a `CTL` store does to
the word on its way, and that any other `CTL` store leaves it, is the model's choice (log entries 9, 31), as is that
the divisor is set with the clock running too (log entry 32). Then, of any stored value: `kill` stops the clock, and
with `enable` too that is the model's reading (log entry 16), `enable` alone starts it, `enable` selects the source; and
a store to one register leaves every field of the others alone. That this holds of a `CLK` word that lacks the constant
bits R102 asks for, and of values of `RNG` and `DMAC` that no micro-program stores, is the model's choice as well (log
entries 21, 33). -/
def Obligations.ProgrammedStoresTakeEffect : Prop :=
  ∀ (p : Params) (d : Devices) (k : Nat), p.wf = true →
    d.store p .pwmctl (clkctl p.regmap true false 0) k = { d with clkRun := false } ∧
    d.store p .pwmdiv (clkdiv p.regmap p.divInt (divf p.divFrac16)) k =
      { d with clkDiv1024 := 1024 * p.divInt + divf p.divFrac16 } ∧
    d.store p .pwmctl (clkctl p.regmap false true p.clkSrc) k =
      { d with clkRun := true, clkSel := p.clkSrc } ∧
    d.store p .dmac (dmacw p.regmap false) k = { d with pDma := false } ∧
    d.store p .rng 32#32 k = { d with pRng := 32 } ∧
    d.store p .sta p.regmap.errClearAll k = { d with pErr := 0#32 } ∧
    (∀ en mode usef rptl pola sbit clrf,
      d.store p .ctl (ctlw p.regmap en mode usef rptl pola sbit clrf) k = { d with
        pEn := en, pMode := mode, pUsef := usef, pRptl := rptl, pPola := pola, pSbit := sbit
        queue := if clrf then [] else d.queue
        line := if en then d.line else d.lineAtStop
        shift := if d.pEn && !en then none else d.shift
        pos := if d.pEn && !en then 0 else d.pos }) ∧
    (∀ v, d.store p .fsel (fselw p.regmap v) k = { d with pinFunc := p.regmap.altPwm }) ∧
    (∀ v, (v.getLsbD p.regmap.killPos = true → (d.store p .pwmctl v k).clkRun = false) ∧
      (v.getLsbD p.regmap.killPos = false → v.getLsbD p.regmap.enablePos = true →
        (d.store p .pwmctl v k).clkRun = true) ∧
      (v.getLsbD p.regmap.enablePos = true →
        (d.store p .pwmctl v k).clkSel = readField p.regmap.srcPos p.regmap.srcW v)) ∧
    (∀ v,
      (∃ run sel, d.store p .pwmctl v k = { d with clkRun := run, clkSel := sel }) ∧
      (∃ div, d.store p .pwmdiv v k = { d with clkDiv1024 := div }) ∧
      (∃ dma, d.store p .dmac v k = { d with pDma := dma }) ∧
      (∃ err, d.store p .sta v k = { d with pErr := err }) ∧
      (∃ pin, d.store p .fsel v k = { d with pinFunc := pin }) ∧
      d.store p .rng v k = { d with pRng := v.toNat } ∧
      (∃ e : Devices, d.store p .ctl v k = { e with
        pRng := d.pRng, pErr := d.pErr, pDma := d.pDma, clkRun := d.clkRun, clkDiv1024 := d.clkDiv1024,
        clkSel := d.clkSel, pinFunc := d.pinFunc, envFault := d.envFault }))

/-- R243: a store to the queue register appends while there is room, and changes nothing else; a full queue marks the
run, drops the word and touches the error flags only, which the spec leaves open (log entry 14). -/
def Obligations.QueueStoreAppendsOrMarks : Prop :=
  ∀ (p : Params) (d : Devices) (v : Word) (k : Nat),
    (d.queue.length < p.qdepth → d.store p .fifo v k = { d with queue := d.queue ++ [v] }) ∧
    (p.qdepth ≤ d.queue.length →
      ∃ flags, d.store p .fifo v k = { d with pErr := flags, envFault := some .queueOverflow })

/-- R64, and R63, which the spec marks as derived from it: every address is a multiple of 4 inside its
register's window. That different registers have different addresses rests on distinct indices in a legal layout,
the model's reading (log entry 23). -/
def Obligations.RegisterAddressesAreAlignedAndInside : Prop :=
  ∀ m : RegMap, m.wf = true →
    (∀ r : Reg, m.addr r = m.base r.win + 4 * m.index r ∧ m.addr r % 4 = 0 ∧
      m.base r.win ≤ m.addr r ∧ m.addr r + 4 ≤ m.base r.win + m.blockSize) ∧
    (∀ r r' : Reg, m.addr r = m.addr r' → r = r')

/-- R247, R248: one period of a running serializer with normal polarity and repeat off, on the PWM pin: a word in
progress sends its next bit from bit 31 down, a finished one is replaced by the head of the queue, and an
empty queue gives the padding bit; a stopped serializer does nothing. -/
def Obligations.SerializerStepFollowsQueue : Prop :=
  ∀ (p : Params) (d : Devices),
    (d.pEn = false → d.tick p = d) ∧
    (d.shifting = true → d.pPola = false → d.pRptl = false → d.pinFunc = p.regmap.altPwm →
      (∀ v, d.shift = some v → d.pos ≠ d.pRng → d.pos < 32 →
        d.tick p = { d with line := d.line ++ [.bit (v.getLsbD (31 - d.pos))], pos := d.pos + 1 }) ∧
      (∀ v rest, (d.shift = none ∨ d.pos = d.pRng) → d.queue = v :: rest →
        d.tick p = { d with
          shift := some v, pos := 1, queue := rest, line := d.line ++ [.bit (v.getLsbD 31)] }) ∧
      ((d.shift = none ∨ d.pos = d.pRng) → d.queue = [] →
        d.tick p = { d with line := d.line ++ [.bit d.pSbit] }))

/-! ### Whole-machine rules -/

/-- R11: the two views agree. Running the micro-program one entry a step from the accepted command, with every
request checked for admission (R71), never stops and ends in the state the atomic command gives. -/
def Obligations.MicroStepsRefineCommands : Prop :=
  (∀ (s : State) (n : BitVec 32), Inv s → s.inst = .unconfigured → n.toNat ≤ s.cfg.capacity →
    ∃ k ≤ 22, Sys2Proof.core.run k (s.acceptCreate n) = exec (.create n) s) ∧
  (∀ s : State, Inv s → s.inst = .ready →
    Sys2Proof.core.run (8 + 2 * wordCount s.n.toNat) s.acceptShow = exec .showFrame s) ∧
  (∀ s : State, Inv s → s.inst = .ready →
    Sys2Proof.core.run 5 s.acceptDestroy = exec .destroy s)

/-- R97, R266: every command issues exactly one response, whose `ERR` field is the register `ERR`, a code from 0
to 5, whose reserved field is 0, and whose `DATA` is the pixel of a successful GETPIX and 0 otherwise. -/
def Obligations.EveryCommandGivesOneResponse : Prop :=
  ∀ (s : State) (i : Instr), Inv s → i.port = .cmd →
    ∃ (t : State) (r : Word), exec i s = .next t ∧ t.rsp = s.rsp ++ [r] ∧
      r.extractLsb' 28 4 = t.err ∧ t.err.toNat ≤ 5 ∧
      r.extractLsb' 24 4 = 0#4 ∧
      (r.extractLsb' 0 24 ≠ 0#24 → t.err = 0#4 ∧ ∃ ix, i = .getpix ix) ∧
      (∀ ix c, i = .getpix ix → t.err = 0#4 → s.pix[ix.toNat]? = some c →
        r = 0#8 ++ c.r ++ c.g ++ c.b)

/-- R23, R36: `N` and `STATE` are changed by CREATE and DESTROY only. -/
def Obligations.OnlyCreateAndDestroyChangeLifeCycle : Prop :=
  ∀ (s t : State) (i : Instr), exec i s = .next t →
    (∀ n, i ≠ .create n) → i ≠ .destroy →
    t.n = s.n ∧ t.inst = s.inst

/-- R272: a word taken from the port reports the first check it fails, in the order encoding, state, count or
index, colour name, hardware access, and 0 when it fails none. -/
def Obligations.FirstFailedCheckIsReported : Prop :=
  ∀ (s : State) (w : Record) (rest : List Record), Inv s → s.cmdPort = w :: rest →
    ∃ t, step s = .next t ∧
      ((∃ e, decodeCmd w = .error e) → t.err = 5#4) ∧
      (∀ i, decodeCmd w = .ok i →
        (s.inst = .ready → (∃ n, i = .create n) → t.err = 4#4) ∧
        (s.inst = .unconfigured → (∀ n, i ≠ .create n) → t.err = 4#4) ∧
        (∀ n, s.inst = .unconfigured → i = .create n →
          (s.cfg.capacity < n.toNat → t.err = 1#4) ∧
          (n.toNat ≤ s.cfg.capacity → (∃ k < 4, s.grantAt k = false) → t.err = 3#4) ∧
          (n.toNat ≤ s.cfg.capacity → (∀ k < 4, s.grantAt k = true) → t.err = 0#4)) ∧
        (∀ ix, s.inst = .ready → (i = .getpix ix ∨ ∃ r g b, i = .setrgb ix r g b) →
          t.err = if ix.toNat < s.n.toNat then 0#4 else 2#4) ∧
        (∀ ix name lum, s.inst = .ready → i = .setnamed ix name lum →
          t.err = if ix.toNat < s.n.toNat then (if namedColor s.cfg name = none then 5#4 else 0#4)
            else 2#4) ∧
        (s.inst = .ready → i = .showFrame ∨ i = .destroy → t.err = 0#4))

/-- R305, which the spec marks as derived: the life cycle. `UNCONFIGURED` is left by a successful CREATE only,
`READY` by DESTROY only, whatever the word. -/
def Obligations.LifeCycleFollowsTable : Prop :=
  ∀ (s : State) (w : Record) (rest : List Record), Inv s → s.cmdPort = w :: rest →
    ∃ t, step s = .next t ∧
      (s.inst = .unconfigured →
        (t.inst = .ready ↔ (∃ n, decodeCmd w = .ok (.create n)) ∧ t.err = 0#4)) ∧
      (s.inst = .ready → (t.inst = .unconfigured ↔ decodeCmd w = .ok .destroy))

/-- R22, in a sentence the spec marks as derived: the entries of `PIX` from `N` on cannot be observed: with
other colours there, every command gives the same response, trace, wire and state, and the entries below the new
`N` are the same. -/
def Obligations.EntriesBeyondLengthAreUnobservable : Prop :=
  ∀ (s : State) (i : Instr) (pix : List Color), i.port = .cmd → Inv s →
    (∀ p < s.n.toNat, pix[p]? = s.pix[p]?) →
    ∃ t t', exec i s = .next t ∧ exec i { s with pix := pix } = .next t' ∧
      t' = { t with pix := t'.pix } ∧ ∀ p < t.n.toNat, t'.pix[p]? = t.pix[p]?

/-- R25, R29, R32: no command reads what an earlier one left in `ERR`, `WAVE`, `Q` or `FSEL_V`: with other
values there, it gives the same state but for the transient arrays and the latch. -/
def Obligations.NothingReadsTransientState : Prop :=
  ∀ (s : State) (i : Instr) (wave q : List Word) (f : Word) (e : BitVec 4), i.port = .cmd →
    ∃ t t', exec i s = .next t ∧ exec i { s with wave := wave, q := q, fselV := f, err := e } = .next t' ∧
      t' = { t with wave := t'.wave, q := t'.q, fselV := t'.fselV }

/-- R35: the trace and the responses are write-only: with a longer past, every instruction does the same and
appends the same. -/
def Obligations.TraceIsWriteOnly : Prop :=
  ∀ (s t : State) (i : Instr) (past : List Record) (said : List Word), exec i s = .next t →
    exec i { s with tr := past ++ s.tr, rsp := said ++ s.rsp } =
      .next { t with tr := past ++ t.tr, rsp := said ++ t.rsp }

/-- R319, which the spec marks as derived: the waits in what each command appends to the trace. A successful CREATE
waits seven settle intervals, SHOW two and one queue gap a word, DESTROY none; SETRGB, SETNAMED and GETPIX append
nothing, whatever the state. -/
def Obligations.WaitsBoundCommandTime : Prop :=
  (∀ (s : State) (n : BitVec 32), Inv s → s.inst = .unconfigured → n.toNat ≤ s.cfg.capacity →
    (∀ k < 4, s.grantAt k = true) →
    ∃ t l, exec (.create n) s = .next t ∧ t.err = 0#4 ∧ t.tr = s.tr ++ l ∧
      traceTime s.cfg l = 7 * s.cfg.tSettle) ∧
  (∀ s : State, Inv s → s.inst = .ready →
    (∃ t l, exec .showFrame s = .next t ∧ t.tr = s.tr ++ l ∧
      traceTime s.cfg l = 2 * s.cfg.tSettle + wordCount s.n.toNat * s.cfg.tFifoGap) ∧
    (∃ t l, exec .destroy s = .next t ∧ t.tr = s.tr ++ l ∧ traceTime s.cfg l = 0)) ∧
  (∀ (s : State) (i : Instr),
    ((∃ ix, i = .getpix ix) ∨ (∃ ix r g b, i = .setrgb ix r g b) ∨
      (∃ ix name lum, i = .setnamed ix name lum)) →
    ∃ t, exec i s = .next t ∧ t.tr = s.tr)
end

