-- ==== Sys2Proof/Laws/Decode.lean ====
section
/-! SUPPORT. The fields of the words the encoder builds, and of a word put together from its own fields (rules R91,
R100): decoding and encoding meet here. -/

namespace Sys2Proof

variable (op kind win sub : BitVec 4) (a : BitVec 24) (idx val : BitVec 32) (reg : BitVec 16)

@[simp] theorem opField_cmdWord : opField (cmdWord op a idx) = op := by
  apply BitVec.eq_of_getLsbD_eq
  intro i hi
  simp [opField, cmdWord, hi]
  grind

@[simp] theorem subField_cmdWord : subField (cmdWord op a idx) = 0#4 := by
  apply BitVec.eq_of_getLsbD_eq
  intro i hi
  simp [subField, cmdWord, hi]
  grind

@[simp] theorem aField_cmdWord : aField (cmdWord op a idx) = a := by
  apply BitVec.eq_of_getLsbD_eq
  intro i hi
  simp [aField, cmdWord, hi]
  grind

@[simp] theorem idxField_cmdWord : idxField (cmdWord op a idx) = idx := by
  apply BitVec.eq_of_getLsbD_eq
  intro i hi
  simp [idxField, cmdWord, hi]
  grind

@[simp] theorem opField_uopWord : opField (uopWord kind win reg val) = kind := by
  apply BitVec.eq_of_getLsbD_eq
  intro i hi
  simp [opField, uopWord, hi]
  grind

@[simp] theorem subField_uopWord : subField (uopWord kind win reg val) = win := by
  apply BitVec.eq_of_getLsbD_eq
  intro i hi
  simp [subField, uopWord, hi]
  grind

@[simp] theorem uopRsvField_uopWord : uopRsvField (uopWord kind win reg val) = 0#8 := by
  apply BitVec.eq_of_getLsbD_eq
  intro i hi
  simp [uopRsvField, uopWord, hi]
  grind

@[simp] theorem regField_uopWord : regField (uopWord kind win reg val) = reg := by
  apply BitVec.eq_of_getLsbD_eq
  intro i hi
  simp [regField, uopWord, hi]
  grind

@[simp] theorem valField_uopWord : valField (uopWord kind win reg val) = val := by
  apply BitVec.eq_of_getLsbD_eq
  intro i hi
  simp [valField, uopWord, hi]
  grind

/-- A command word is its fields put together when `RSV` is 0 (rule R91). -/
theorem cmdWord_fields (w : Record) (h : subField w = 0#4) :
    cmdWord (opField w) (aField w) (idxField w) = w := by
  have hs : ∀ i, i < 4 → w.getLsbD (56 + i) = false := by
    intro i hi
    have := congrArg (fun x => x.getLsbD i) h
    simpa [subField, hi] using this
  apply BitVec.eq_of_getLsbD_eq
  intro i hi
  simp [cmdWord, opField, aField, idxField]
  grind

/-- A record is its fields put together when `RSV` is 0 (rule R100). -/
theorem uopWord_fields (w : Record) (h : uopRsvField w = 0#8) :
    uopWord (opField w) (subField w) (regField w) (valField w) = w := by
  have hs : ∀ i, i < 8 → w.getLsbD (48 + i) = false := by
    intro i hi
    have := congrArg (fun x => x.getLsbD i) h
    simpa [uopRsvField, hi] using this
  apply BitVec.eq_of_getLsbD_eq
  intro i hi
  simp [uopWord, opField, subField, regField, valField]
  grind

@[simp] theorem windowOfCode_code (w : Window) : windowOfCode w.code = some w := by cases w <;> rfl

@[simp] theorem intervalOfCode_code (t : Interval) : intervalOfCode t.code = some t := by cases t <;> rfl

theorem code_of_windowOfCode {c : BitVec 4} {w : Window} (h : windowOfCode c = some w) : w.code = c := by
  revert h; revert c; cases w <;> decide

theorem code_of_intervalOfCode {c : BitVec 16} {t : Interval} (h : intervalOfCode c = some t) :
    t.code = c := by
  unfold intervalOfCode at h
  split at h <;> cases h <;> (apply BitVec.eq_of_toNat_eq; simp_all [Interval.code])

end Sys2Proof
end

