-- ==== Sys2Proof/Laws/Devices.lean ====
section
/-! SUPPORT. What the serializer's periods change and what they leave alone (rule R247). -/

namespace Sys2Proof.Machine

variable (p : Params)

/-- What no period of the serializer touches: every stored field of the PWM block but the shift register, the queue
and the wire, and the clock manager and the pin. -/
structure SameSettings (d e : Devices) : Prop where
  pEn : e.pEn = d.pEn
  pMode : e.pMode = d.pMode
  pUsef : e.pUsef = d.pUsef
  pRptl : e.pRptl = d.pRptl
  pPola : e.pPola = d.pPola
  pSbit : e.pSbit = d.pSbit
  pRng : e.pRng = d.pRng
  pErr : e.pErr = d.pErr
  pDma : e.pDma = d.pDma
  clkRun : e.clkRun = d.clkRun
  clkDiv1024 : e.clkDiv1024 = d.clkDiv1024
  clkSel : e.clkSel = d.clkSel
  pinFunc : e.pinFunc = d.pinFunc

theorem SameSettings.refl (d : Devices) : SameSettings d d := by constructor <;> rfl

theorem SameSettings.trans {d e f : Devices} (h : SameSettings d e) (g : SameSettings e f) :
    SameSettings d f := by
  cases h; cases g; constructor <;> simp_all

theorem Devices.sendBit_settings (v : Word) (d : Devices) : SameSettings d (d.sendBit p v) := by
  unfold Devices.sendBit; split <;> constructor <;> rfl

theorem Devices.sendIdle_settings (d : Devices) : SameSettings d (d.sendIdle p) := by
  unfold Devices.sendIdle
  split
  · exact SameSettings.trans (e := { d with pos := 0 }) (by constructor <;> rfl) (sendBit_settings p _ _)
  · constructor <;> rfl

theorem Devices.tick_settings (d : Devices) : SameSettings d (d.tick p) := by
  unfold Devices.tick
  split
  · split
    · exact sendBit_settings p _ _
    · exact SameSettings.trans (e := { d with shift := some _, pos := 0, queue := _ })
        (by constructor <;> rfl) (sendBit_settings p _ _)
    · exact sendIdle_settings p _
  · exact SameSettings.refl d

/-- Everything `k` periods can do to the settings: nothing. -/
theorem Devices.serialize_settings (k : Nat) (d : Devices) : SameSettings d (d.serialize p k) := by
  induction k generalizing d with
  | zero => exact SameSettings.refl d
  | succ k ih => exact (tick_settings p d).trans (ih _)

@[simp] theorem Devices.serialize_zero (d : Devices) : d.serialize p 0 = d := rfl

theorem Devices.serialize_add (j k : Nat) (d : Devices) :
    d.serialize p (j + k) = (d.serialize p j).serialize p k := by
  induction j generalizing d with
  | zero => simp
  | succ j ih => rw [Nat.succ_add]; exact ih _

theorem Devices.tick_stopped (d : Devices) (h : d.pEn = false) : d.tick p = d := by
  simp [Devices.tick, Devices.shifting, h]

/-- A stopped serializer does nothing, however long. -/
theorem Devices.serialize_stopped (k : Nat) (d : Devices) (h : d.pEn = false) :
    d.serialize p k = d := by
  induction k generalizing d with
  | zero => rfl
  | succ k ih => rw [Devices.serialize, tick_stopped p d h]; exact ih d h

theorem Devices.sendBit_queue (v : Word) (d : Devices) : (d.sendBit p v).queue = d.queue := by
  unfold Devices.sendBit; split <;> rfl

theorem Devices.sendIdle_queue (d : Devices) : (d.sendIdle p).queue = d.queue := by
  unfold Devices.sendIdle; split
  · exact sendBit_queue p _ _
  · rfl

/-- The serializer only takes words from the queue. -/
theorem Devices.tick_queue_length (d : Devices) : (d.tick p).queue.length ≤ d.queue.length := by
  unfold Devices.tick
  split
  · split
    · rw [sendBit_queue]
    · rename_i h; rw [sendBit_queue]; simp [*]
    · rw [sendIdle_queue]
  · exact Nat.le_refl _

theorem Devices.serialize_queue_length (k : Nat) (d : Devices) :
    (d.serialize p k).queue.length ≤ d.queue.length := by
  induction k generalizing d with
  | zero => exact Nat.le_refl _
  | succ k ih => exact Nat.le_trans (ih _) (tick_queue_length p d)

/-- A stopped serializer that holds no word keeps holding none. -/
theorem Devices.serialize_shift_stopped (k : Nat) (d : Devices)
    (h : d.pEn = false → d.shift = none) :
    (d.serialize p k).pEn = false → (d.serialize p k).shift = none := by
  intro he
  have hd : d.pEn = false := by rw [← (serialize_settings p k d).pEn]; exact he
  rw [serialize_stopped p k d hd]; exact h hd

end Sys2Proof.Machine
end

