-- ==== Sys2Proof/Laws/Encoder.lean ====
section
/-! SUPPORT. The bits of the words the encoder builds (rules R195 to R199). -/

namespace Sys2Proof.Machine

theorem bitsToNat_lt (f : Nat → Bool) (k : Nat) : bitsToNat f k < 2 ^ k := by
  induction k with
  | zero => simp [bitsToNat]
  | succ k ih => simp only [bitsToNat, Nat.pow_succ]; split <;> omega

theorem testBit_bitsToNat (f : Nat → Bool) (k i : Nat) :
    (bitsToNat f k).testBit i = (decide (i < k) && f i) := by
  induction k with
  | zero => simp [bitsToNat]
  | succ k ih =>
    have hlt := bitsToNat_lt f k
    have hadd : bitsToNat f (k + 1) = 2 ^ k * (f k).toNat + bitsToNat f k := by
      cases h : f k <;> simp [bitsToNat, h, Nat.add_comm]
    rw [hadd, Nat.testBit_two_pow_mul_add _ hlt, ih]
    by_cases hi : i < k
    · simp [hi, Nat.lt_succ_of_lt hi]
    · rcases Nat.lt_trichotomy i k with h | h | h
      · omega
      · subst h; cases f i <;> simp
      · have : i - k ≠ 0 := by omega
        cases hf : f k
        · simp [Nat.not_lt.mpr (Nat.le_of_lt h), show ¬ i < k + 1 by omega]
        · have h1 : Nat.testBit 1 (i - k) = false :=
            Nat.testBit_lt_two_pow (Nat.one_lt_two_pow this)
          simp [hi, show ¬ i < k + 1 by omega, h1]

/-- Bit `i` of a word built from `f` is `f i`. -/
theorem wordOf_getLsbD (f : Nat → Bool) {i : Nat} (hi : i < 32) :
    (wordOf f).getLsbD i = f i := by
  rw [wordOf, BitVec.getLsbD_ofNat, testBit_bitsToNat]; simp [hi]

theorem bitrev32_getLsbD (x : Word) {i : Nat} (hi : i < 32) :
    (bitrev32 x).getLsbD i = x.getLsbD (31 - i) := by
  rw [bitrev32, wordOf_getLsbD _ hi]

theorem waveWord_getLsbD (pix : List Color) (n w : Nat) {i : Nat} (hi : i < 32) :
    (waveWord pix n w).getLsbD i =
      (decide (32 * w + i < streamLength n) && streamBit pix (32 * w + i)) := by
  rw [waveWord, wordOf_getLsbD _ hi]

@[simp] theorem encodeWave_length (pix : List Color) (n : Nat) :
    (encodeWave pix n).length = wordCount n := by
  simp [encodeWave]

@[simp] theorem encodeQueue_length (pix : List Color) (n : Nat) :
    (encodeQueue pix n).length = wordCount n := by
  simp [encodeQueue]

theorem encodeQueue_getElem? (pix : List Color) (n w : Nat) (hw : w < wordCount n) :
    (encodeQueue pix n)[w]? = some (bitrev32 (waveWord pix n w)) := by
  simp [encodeQueue, encodeWave, hw]

/-- With no store to `PIX` beyond `N`, the encoder reads entries below `N` only (rule R190). -/
theorem streamBit_congr (pix pix' : List Color) (n b : Nat) (hb : b < streamLength n)
    (h : ∀ p < n, pix[p]? = pix'[p]?) : streamBit pix b = streamBit pix' b := by
  have hp : b / 3 / 24 < n := by simp only [streamLength] at hb; omega
  simp only [streamBit, dataBit, List.getD_eq_getElem?_getD, h _ hp]

end Sys2Proof.Machine
end

