-- ==== Sys2Proof/Laws/State.lean ====
section
/-! SUPPORT. What each named update of the state does to each field, one lemma a field, true by `rfl`: later
proofs never unfold a record update. -/

namespace Sys2Proof.Machine

variable (s : State)

/-! ### `emit` -/

@[simp] theorem State.emit_cfg (u : Uop) : (s.emit u).cfg = s.cfg := rfl
@[simp] theorem State.emit_pix (u : Uop) : (s.emit u).pix = s.pix := rfl
@[simp] theorem State.emit_n (u : Uop) : (s.emit u).n = s.n := rfl
@[simp] theorem State.emit_inst (u : Uop) : (s.emit u).inst = s.inst := rfl
@[simp] theorem State.emit_err (u : Uop) : (s.emit u).err = s.err := rfl
@[simp] theorem State.emit_chan (u : Uop) : (s.emit u).chan = s.chan := rfl
@[simp] theorem State.emit_mapped (u : Uop) : (s.emit u).mapped = s.mapped := rfl
@[simp] theorem State.emit_wave (u : Uop) : (s.emit u).wave = s.wave := rfl
@[simp] theorem State.emit_q (u : Uop) : (s.emit u).q = s.q := rfl
@[simp] theorem State.emit_seq (u : Uop) : (s.emit u).seq = s.seq := rfl
@[simp] theorem State.emit_fselV (u : Uop) : (s.emit u).fselV = s.fselV := rfl
@[simp] theorem State.emit_tr (u : Uop) : (s.emit u).tr = s.tr ++ [encode u.toInstr] := rfl
@[simp] theorem State.emit_cmdPort (u : Uop) : (s.emit u).cmdPort = s.cmdPort := rfl
@[simp] theorem State.emit_rsp (u : Uop) : (s.emit u).rsp = s.rsp := rfl
@[simp] theorem State.emit_run (u : Uop) : (s.emit u).run = s.run := rfl
@[simp] theorem State.emit_env (u : Uop) : (s.emit u).env = s.env := rfl
@[simp] theorem State.emit_dev (u : Uop) : (s.emit u).dev = s.dev := rfl

/-! ### `dropGrant` -/

@[simp] theorem State.dropGrant_cfg : s.dropGrant.cfg = s.cfg := rfl
@[simp] theorem State.dropGrant_pix : s.dropGrant.pix = s.pix := rfl
@[simp] theorem State.dropGrant_n : s.dropGrant.n = s.n := rfl
@[simp] theorem State.dropGrant_inst : s.dropGrant.inst = s.inst := rfl
@[simp] theorem State.dropGrant_err : s.dropGrant.err = s.err := rfl
@[simp] theorem State.dropGrant_chan : s.dropGrant.chan = s.chan := rfl
@[simp] theorem State.dropGrant_mapped : s.dropGrant.mapped = s.mapped := rfl
@[simp] theorem State.dropGrant_wave : s.dropGrant.wave = s.wave := rfl
@[simp] theorem State.dropGrant_q : s.dropGrant.q = s.q := rfl
@[simp] theorem State.dropGrant_seq : s.dropGrant.seq = s.seq := rfl
@[simp] theorem State.dropGrant_fselV : s.dropGrant.fselV = s.fselV := rfl
@[simp] theorem State.dropGrant_tr : s.dropGrant.tr = s.tr := rfl
@[simp] theorem State.dropGrant_cmdPort : s.dropGrant.cmdPort = s.cmdPort := rfl
@[simp] theorem State.dropGrant_rsp : s.dropGrant.rsp = s.rsp := rfl
@[simp] theorem State.dropGrant_run : s.dropGrant.run = s.run := rfl
@[simp] theorem State.dropGrant_env : s.dropGrant.env = ⟨s.env.grants.tail, s.env.loads, s.env.ticks, s.env.draws⟩ := rfl
@[simp] theorem State.dropGrant_dev : s.dropGrant.dev = s.dev := rfl

/-! ### `dropLoad` -/

@[simp] theorem State.dropLoad_cfg : s.dropLoad.cfg = s.cfg := rfl
@[simp] theorem State.dropLoad_pix : s.dropLoad.pix = s.pix := rfl
@[simp] theorem State.dropLoad_n : s.dropLoad.n = s.n := rfl
@[simp] theorem State.dropLoad_inst : s.dropLoad.inst = s.inst := rfl
@[simp] theorem State.dropLoad_err : s.dropLoad.err = s.err := rfl
@[simp] theorem State.dropLoad_chan : s.dropLoad.chan = s.chan := rfl
@[simp] theorem State.dropLoad_mapped : s.dropLoad.mapped = s.mapped := rfl
@[simp] theorem State.dropLoad_wave : s.dropLoad.wave = s.wave := rfl
@[simp] theorem State.dropLoad_q : s.dropLoad.q = s.q := rfl
@[simp] theorem State.dropLoad_seq : s.dropLoad.seq = s.seq := rfl
@[simp] theorem State.dropLoad_fselV : s.dropLoad.fselV = s.fselV := rfl
@[simp] theorem State.dropLoad_tr : s.dropLoad.tr = s.tr := rfl
@[simp] theorem State.dropLoad_cmdPort : s.dropLoad.cmdPort = s.cmdPort := rfl
@[simp] theorem State.dropLoad_rsp : s.dropLoad.rsp = s.rsp := rfl
@[simp] theorem State.dropLoad_run : s.dropLoad.run = s.run := rfl
@[simp] theorem State.dropLoad_env : s.dropLoad.env = ⟨s.env.grants, s.env.loads.tail, s.env.ticks, s.env.draws⟩ := rfl
@[simp] theorem State.dropLoad_dev : s.dropLoad.dev = s.dev := rfl

/-! ### `elapse` -/

@[simp] theorem State.elapse_cfg : s.elapse.cfg = s.cfg := rfl
@[simp] theorem State.elapse_pix : s.elapse.pix = s.pix := rfl
@[simp] theorem State.elapse_n : s.elapse.n = s.n := rfl
@[simp] theorem State.elapse_inst : s.elapse.inst = s.inst := rfl
@[simp] theorem State.elapse_err : s.elapse.err = s.err := rfl
@[simp] theorem State.elapse_chan : s.elapse.chan = s.chan := rfl
@[simp] theorem State.elapse_mapped : s.elapse.mapped = s.mapped := rfl
@[simp] theorem State.elapse_wave : s.elapse.wave = s.wave := rfl
@[simp] theorem State.elapse_q : s.elapse.q = s.q := rfl
@[simp] theorem State.elapse_seq : s.elapse.seq = s.seq := rfl
@[simp] theorem State.elapse_fselV : s.elapse.fselV = s.fselV := rfl
@[simp] theorem State.elapse_tr : s.elapse.tr = s.tr := rfl
@[simp] theorem State.elapse_cmdPort : s.elapse.cmdPort = s.cmdPort := rfl
@[simp] theorem State.elapse_rsp : s.elapse.rsp = s.rsp := rfl
@[simp] theorem State.elapse_run : s.elapse.run = s.run := rfl
@[simp] theorem State.elapse_env : s.elapse.env = ⟨s.env.grants, s.env.loads, s.env.ticks.tail, s.env.draws⟩ := rfl
@[simp] theorem State.elapse_dev : s.elapse.dev = s.dev.serialize s.cfg (s.env.ticks.headD 0) := rfl

/-! ### `advance` -/

@[simp] theorem State.advance_cfg : s.advance.cfg = s.cfg := rfl
@[simp] theorem State.advance_pix : s.advance.pix = s.pix := rfl
@[simp] theorem State.advance_n : s.advance.n = s.n := rfl
@[simp] theorem State.advance_inst : s.advance.inst = s.inst := rfl
@[simp] theorem State.advance_err : s.advance.err = s.err := rfl
@[simp] theorem State.advance_chan : s.advance.chan = s.chan := rfl
@[simp] theorem State.advance_mapped : s.advance.mapped = s.mapped := rfl
@[simp] theorem State.advance_wave : s.advance.wave = s.wave := rfl
@[simp] theorem State.advance_q : s.advance.q = s.q := rfl
@[simp] theorem State.advance_seq : s.advance.seq = ⟨s.seq.phase, s.seq.idx + 1⟩ := rfl
@[simp] theorem State.advance_fselV : s.advance.fselV = s.fselV := rfl
@[simp] theorem State.advance_tr : s.advance.tr = s.tr := rfl
@[simp] theorem State.advance_cmdPort : s.advance.cmdPort = s.cmdPort := rfl
@[simp] theorem State.advance_rsp : s.advance.rsp = s.rsp := rfl
@[simp] theorem State.advance_run : s.advance.run = s.run := rfl
@[simp] theorem State.advance_env : s.advance.env = ⟨s.env.grants, s.env.loads, s.env.ticks.tail, s.env.draws + 1⟩ := rfl
@[simp] theorem State.advance_dev : s.advance.dev = s.dev.serialize s.cfg (s.env.ticks.headD 0) := rfl

/-! ### `complete` -/

@[simp] theorem State.complete_cfg (c : ErrCode) (d : BitVec 24) : (s.complete c d).cfg = s.cfg := rfl
@[simp] theorem State.complete_pix (c : ErrCode) (d : BitVec 24) : (s.complete c d).pix = s.pix := rfl
@[simp] theorem State.complete_n (c : ErrCode) (d : BitVec 24) : (s.complete c d).n = s.n := rfl
@[simp] theorem State.complete_inst (c : ErrCode) (d : BitVec 24) : (s.complete c d).inst = s.inst := rfl
@[simp] theorem State.complete_err (c : ErrCode) (d : BitVec 24) : (s.complete c d).err = c.bits := rfl
@[simp] theorem State.complete_chan (c : ErrCode) (d : BitVec 24) : (s.complete c d).chan = s.chan := rfl
@[simp] theorem State.complete_mapped (c : ErrCode) (d : BitVec 24) : (s.complete c d).mapped = s.mapped := rfl
@[simp] theorem State.complete_wave (c : ErrCode) (d : BitVec 24) : (s.complete c d).wave = s.wave := rfl
@[simp] theorem State.complete_q (c : ErrCode) (d : BitVec 24) : (s.complete c d).q = s.q := rfl
@[simp] theorem State.complete_seq (c : ErrCode) (d : BitVec 24) : (s.complete c d).seq = Seq.idle := rfl
@[simp] theorem State.complete_fselV (c : ErrCode) (d : BitVec 24) : (s.complete c d).fselV = s.fselV := rfl
@[simp] theorem State.complete_tr (c : ErrCode) (d : BitVec 24) : (s.complete c d).tr = s.tr := rfl
@[simp] theorem State.complete_cmdPort (c : ErrCode) (d : BitVec 24) : (s.complete c d).cmdPort = s.cmdPort := rfl
@[simp] theorem State.complete_rsp (c : ErrCode) (d : BitVec 24) : (s.complete c d).rsp = s.rsp ++ [rspWord c d] := rfl
@[simp] theorem State.complete_run (c : ErrCode) (d : BitVec 24) : (s.complete c d).run = Run.idle := rfl
@[simp] theorem State.complete_env (c : ErrCode) (d : BitVec 24) : (s.complete c d).env = s.env := rfl
@[simp] theorem State.complete_dev (c : ErrCode) (d : BitVec 24) : (s.complete c d).dev = s.dev := rfl

/-! ### `raise` -/

@[simp] theorem State.raise_cfg (c : ErrCode) : (s.raise c).cfg = s.cfg := rfl
@[simp] theorem State.raise_pix (c : ErrCode) : (s.raise c).pix = s.pix := rfl
@[simp] theorem State.raise_n (c : ErrCode) : (s.raise c).n = s.n := rfl
@[simp] theorem State.raise_inst (c : ErrCode) : (s.raise c).inst = s.inst := rfl
@[simp] theorem State.raise_err (c : ErrCode) : (s.raise c).err = c.bits := rfl
@[simp] theorem State.raise_chan (c : ErrCode) : (s.raise c).chan = s.chan := rfl
@[simp] theorem State.raise_mapped (c : ErrCode) : (s.raise c).mapped = s.mapped := rfl
@[simp] theorem State.raise_wave (c : ErrCode) : (s.raise c).wave = s.wave := rfl
@[simp] theorem State.raise_q (c : ErrCode) : (s.raise c).q = s.q := rfl
@[simp] theorem State.raise_seq (c : ErrCode) : (s.raise c).seq = Seq.idle := rfl
@[simp] theorem State.raise_fselV (c : ErrCode) : (s.raise c).fselV = s.fselV := rfl
@[simp] theorem State.raise_tr (c : ErrCode) : (s.raise c).tr = s.tr := rfl
@[simp] theorem State.raise_cmdPort (c : ErrCode) : (s.raise c).cmdPort = s.cmdPort := rfl
@[simp] theorem State.raise_rsp (c : ErrCode) : (s.raise c).rsp = s.rsp ++ [rspWord c 0#24] := rfl
@[simp] theorem State.raise_run (c : ErrCode) : (s.raise c).run = Run.idle := rfl
@[simp] theorem State.raise_env (c : ErrCode) : (s.raise c).env = s.env := rfl
@[simp] theorem State.raise_dev (c : ErrCode) : (s.raise c).dev = s.dev := rfl

/-! ### `respond` -/

@[simp] theorem State.respond_cfg (d : BitVec 24) : (s.respond d).cfg = s.cfg := rfl
@[simp] theorem State.respond_pix (d : BitVec 24) : (s.respond d).pix = s.pix := rfl
@[simp] theorem State.respond_n (d : BitVec 24) : (s.respond d).n = s.n := rfl
@[simp] theorem State.respond_inst (d : BitVec 24) : (s.respond d).inst = s.inst := rfl
@[simp] theorem State.respond_err (d : BitVec 24) : (s.respond d).err = 0#4 := rfl
@[simp] theorem State.respond_chan (d : BitVec 24) : (s.respond d).chan = s.chan := rfl
@[simp] theorem State.respond_mapped (d : BitVec 24) : (s.respond d).mapped = s.mapped := rfl
@[simp] theorem State.respond_wave (d : BitVec 24) : (s.respond d).wave = s.wave := rfl
@[simp] theorem State.respond_q (d : BitVec 24) : (s.respond d).q = s.q := rfl
@[simp] theorem State.respond_seq (d : BitVec 24) : (s.respond d).seq = Seq.idle := rfl
@[simp] theorem State.respond_fselV (d : BitVec 24) : (s.respond d).fselV = s.fselV := rfl
@[simp] theorem State.respond_tr (d : BitVec 24) : (s.respond d).tr = s.tr := rfl
@[simp] theorem State.respond_cmdPort (d : BitVec 24) : (s.respond d).cmdPort = s.cmdPort := rfl
@[simp] theorem State.respond_rsp (d : BitVec 24) : (s.respond d).rsp = s.rsp ++ [rspWord .success d] := rfl
@[simp] theorem State.respond_run (d : BitVec 24) : (s.respond d).run = Run.idle := rfl
@[simp] theorem State.respond_env (d : BitVec 24) : (s.respond d).env = s.env := rfl
@[simp] theorem State.respond_dev (d : BitVec 24) : (s.respond d).dev = s.dev := rfl

/-! ### `abort` -/

@[simp] theorem State.abort_cfg : s.abort.cfg = s.cfg := rfl
@[simp] theorem State.abort_pix : s.abort.pix = s.pix := rfl
@[simp] theorem State.abort_n : s.abort.n = s.n := rfl
@[simp] theorem State.abort_inst : s.abort.inst = s.inst := rfl
@[simp] theorem State.abort_err : s.abort.err = s.err := rfl
@[simp] theorem State.abort_chan : s.abort.chan = s.chan := rfl
@[simp] theorem State.abort_mapped : s.abort.mapped = s.mapped := rfl
@[simp] theorem State.abort_wave : s.abort.wave = s.wave := rfl
@[simp] theorem State.abort_q : s.abort.q = s.q := rfl
@[simp] theorem State.abort_seq : s.abort.seq = ⟨s.seq.phase, s.seq.idx + 1⟩ := rfl
@[simp] theorem State.abort_fselV : s.abort.fselV = s.fselV := rfl
@[simp] theorem State.abort_tr : s.abort.tr = s.tr := rfl
@[simp] theorem State.abort_cmdPort : s.abort.cmdPort = s.cmdPort := rfl
@[simp] theorem State.abort_rsp : s.abort.rsp = s.rsp := rfl
@[simp] theorem State.abort_run : s.abort.run = ⟨s.run.prog.take (s.seq.idx + 1) ++ cleanup (s.run.prog.take s.seq.idx), s.run.arg, .hardwareAccess⟩ := rfl
@[simp] theorem State.abort_env : s.abort.env = ⟨s.env.grants, s.env.loads, s.env.ticks.tail, s.env.draws + 1⟩ := rfl
@[simp] theorem State.abort_dev : s.abort.dev = s.dev.serialize s.cfg (s.env.ticks.headD 0) := rfl

/-! ### `setMapped` -/

@[simp] theorem State.setMapped_cfg (w : Window) (b : Bool) : (s.setMapped w b).cfg = s.cfg := rfl
@[simp] theorem State.setMapped_pix (w : Window) (b : Bool) : (s.setMapped w b).pix = s.pix := rfl
@[simp] theorem State.setMapped_n (w : Window) (b : Bool) : (s.setMapped w b).n = s.n := rfl
@[simp] theorem State.setMapped_inst (w : Window) (b : Bool) : (s.setMapped w b).inst = s.inst := rfl
@[simp] theorem State.setMapped_err (w : Window) (b : Bool) : (s.setMapped w b).err = s.err := rfl
@[simp] theorem State.setMapped_chan (w : Window) (b : Bool) : (s.setMapped w b).chan = s.chan := rfl
@[simp] theorem State.setMapped_mapped (w : Window) (b : Bool) : (s.setMapped w b).mapped = s.mapped.set w b := rfl
@[simp] theorem State.setMapped_wave (w : Window) (b : Bool) : (s.setMapped w b).wave = s.wave := rfl
@[simp] theorem State.setMapped_q (w : Window) (b : Bool) : (s.setMapped w b).q = s.q := rfl
@[simp] theorem State.setMapped_seq (w : Window) (b : Bool) : (s.setMapped w b).seq = s.seq := rfl
@[simp] theorem State.setMapped_fselV (w : Window) (b : Bool) : (s.setMapped w b).fselV = s.fselV := rfl
@[simp] theorem State.setMapped_tr (w : Window) (b : Bool) : (s.setMapped w b).tr = s.tr := rfl
@[simp] theorem State.setMapped_cmdPort (w : Window) (b : Bool) : (s.setMapped w b).cmdPort = s.cmdPort := rfl
@[simp] theorem State.setMapped_rsp (w : Window) (b : Bool) : (s.setMapped w b).rsp = s.rsp := rfl
@[simp] theorem State.setMapped_run (w : Window) (b : Bool) : (s.setMapped w b).run = s.run := rfl
@[simp] theorem State.setMapped_env (w : Window) (b : Bool) : (s.setMapped w b).env = s.env := rfl
@[simp] theorem State.setMapped_dev (w : Window) (b : Bool) : (s.setMapped w b).dev = s.dev := rfl

/-! ### `setPixel` -/

@[simp] theorem State.setPixel_cfg (i : Nat) (c : Color) : (s.setPixel i c).cfg = s.cfg := rfl
@[simp] theorem State.setPixel_pix (i : Nat) (c : Color) : (s.setPixel i c).pix = s.pix.set i c := rfl
@[simp] theorem State.setPixel_n (i : Nat) (c : Color) : (s.setPixel i c).n = s.n := rfl
@[simp] theorem State.setPixel_inst (i : Nat) (c : Color) : (s.setPixel i c).inst = s.inst := rfl
@[simp] theorem State.setPixel_err (i : Nat) (c : Color) : (s.setPixel i c).err = s.err := rfl
@[simp] theorem State.setPixel_chan (i : Nat) (c : Color) : (s.setPixel i c).chan = s.chan := rfl
@[simp] theorem State.setPixel_mapped (i : Nat) (c : Color) : (s.setPixel i c).mapped = s.mapped := rfl
@[simp] theorem State.setPixel_wave (i : Nat) (c : Color) : (s.setPixel i c).wave = s.wave := rfl
@[simp] theorem State.setPixel_q (i : Nat) (c : Color) : (s.setPixel i c).q = s.q := rfl
@[simp] theorem State.setPixel_seq (i : Nat) (c : Color) : (s.setPixel i c).seq = s.seq := rfl
@[simp] theorem State.setPixel_fselV (i : Nat) (c : Color) : (s.setPixel i c).fselV = s.fselV := rfl
@[simp] theorem State.setPixel_tr (i : Nat) (c : Color) : (s.setPixel i c).tr = s.tr := rfl
@[simp] theorem State.setPixel_cmdPort (i : Nat) (c : Color) : (s.setPixel i c).cmdPort = s.cmdPort := rfl
@[simp] theorem State.setPixel_rsp (i : Nat) (c : Color) : (s.setPixel i c).rsp = s.rsp := rfl
@[simp] theorem State.setPixel_run (i : Nat) (c : Color) : (s.setPixel i c).run = s.run := rfl
@[simp] theorem State.setPixel_env (i : Nat) (c : Color) : (s.setPixel i c).env = s.env := rfl
@[simp] theorem State.setPixel_dev (i : Nat) (c : Color) : (s.setPixel i c).dev = s.dev := rfl

/-! ### `initPixels` -/

@[simp] theorem State.initPixels_cfg : s.initPixels.cfg = s.cfg := rfl
@[simp] theorem State.initPixels_pix : s.initPixels.pix = List.replicate s.cfg.capacity Color.zero := rfl
@[simp] theorem State.initPixels_n : s.initPixels.n = s.run.arg := rfl
@[simp] theorem State.initPixels_inst : s.initPixels.inst = s.inst := rfl
@[simp] theorem State.initPixels_err : s.initPixels.err = s.err := rfl
@[simp] theorem State.initPixels_chan : s.initPixels.chan = s.chan := rfl
@[simp] theorem State.initPixels_mapped : s.initPixels.mapped = s.mapped := rfl
@[simp] theorem State.initPixels_wave : s.initPixels.wave = s.wave := rfl
@[simp] theorem State.initPixels_q : s.initPixels.q = s.q := rfl
@[simp] theorem State.initPixels_seq : s.initPixels.seq = s.seq := rfl
@[simp] theorem State.initPixels_fselV : s.initPixels.fselV = s.fselV := rfl
@[simp] theorem State.initPixels_tr : s.initPixels.tr = s.tr := rfl
@[simp] theorem State.initPixels_cmdPort : s.initPixels.cmdPort = s.cmdPort := rfl
@[simp] theorem State.initPixels_rsp : s.initPixels.rsp = s.rsp := rfl
@[simp] theorem State.initPixels_run : s.initPixels.run = s.run := rfl
@[simp] theorem State.initPixels_env : s.initPixels.env = s.env := rfl
@[simp] theorem State.initPixels_dev : s.initPixels.dev = s.dev := rfl

/-! ### `accept` -/

@[simp] theorem State.accept_cfg (ph : Phase) (prog : List MicroOp) (a : BitVec 32) : (s.accept ph prog a).cfg = s.cfg := rfl
@[simp] theorem State.accept_pix (ph : Phase) (prog : List MicroOp) (a : BitVec 32) : (s.accept ph prog a).pix = s.pix := rfl
@[simp] theorem State.accept_n (ph : Phase) (prog : List MicroOp) (a : BitVec 32) : (s.accept ph prog a).n = s.n := rfl
@[simp] theorem State.accept_inst (ph : Phase) (prog : List MicroOp) (a : BitVec 32) : (s.accept ph prog a).inst = s.inst := rfl
@[simp] theorem State.accept_err (ph : Phase) (prog : List MicroOp) (a : BitVec 32) : (s.accept ph prog a).err = s.err := rfl
@[simp] theorem State.accept_chan (ph : Phase) (prog : List MicroOp) (a : BitVec 32) : (s.accept ph prog a).chan = s.chan := rfl
@[simp] theorem State.accept_mapped (ph : Phase) (prog : List MicroOp) (a : BitVec 32) : (s.accept ph prog a).mapped = s.mapped := rfl
@[simp] theorem State.accept_wave (ph : Phase) (prog : List MicroOp) (a : BitVec 32) : (s.accept ph prog a).wave = s.wave := rfl
@[simp] theorem State.accept_q (ph : Phase) (prog : List MicroOp) (a : BitVec 32) : (s.accept ph prog a).q = s.q := rfl
@[simp] theorem State.accept_seq (ph : Phase) (prog : List MicroOp) (a : BitVec 32) : (s.accept ph prog a).seq = ⟨ph, 0⟩ := rfl
@[simp] theorem State.accept_fselV (ph : Phase) (prog : List MicroOp) (a : BitVec 32) : (s.accept ph prog a).fselV = s.fselV := rfl
@[simp] theorem State.accept_tr (ph : Phase) (prog : List MicroOp) (a : BitVec 32) : (s.accept ph prog a).tr = s.tr := rfl
@[simp] theorem State.accept_cmdPort (ph : Phase) (prog : List MicroOp) (a : BitVec 32) : (s.accept ph prog a).cmdPort = s.cmdPort := rfl
@[simp] theorem State.accept_rsp (ph : Phase) (prog : List MicroOp) (a : BitVec 32) : (s.accept ph prog a).rsp = s.rsp := rfl
@[simp] theorem State.accept_run (ph : Phase) (prog : List MicroOp) (a : BitVec 32) : (s.accept ph prog a).run = ⟨prog, a, .success⟩ := rfl
@[simp] theorem State.accept_env (ph : Phase) (prog : List MicroOp) (a : BitVec 32) : (s.accept ph prog a).env = s.env := rfl
@[simp] theorem State.accept_dev (ph : Phase) (prog : List MicroOp) (a : BitVec 32) : (s.accept ph prog a).dev = s.dev := rfl

/-! ### `MAPPED` -/

@[simp] theorem Mapped.get_set (m : Mapped) (w w' : Window) (b : Bool) :
    (m.set w b).get w' = if w' = w then b else m.get w' := by
  cases w <;> cases w' <;> rfl

theorem Mapped.eq_none_iff (m : Mapped) : m = Mapped.none ↔ ∀ w, m.get w = false := by
  constructor
  · rintro rfl w; cases w <;> rfl
  · intro h
    have h1 := h .gpio; have h2 := h .pwm; have h3 := h .clk
    cases m; simp_all [Mapped.get, Mapped.none]

end Sys2Proof.Machine
end

