-- ==== Sys2Proof/Laws/Invariant.lean ====
section
/-! SUPPORT. What the invariant of command boundaries does not look at: the environment's inputs, the ports, the
trace, `ERR` and the transient arrays. -/

namespace Sys2Proof.Machine

theorem Inv.withInputs {s : State} (h : Inv s) (env : Env) (cmdPort : List Record) (tr : List Record)
    (rsp : List Word) (err : BitVec 4) (wave q : List Word) (f : Word) :
    Inv { s with env := env, cmdPort := cmdPort, tr := tr, rsp := rsp, err := err, wave := wave, q := q,
                 fselV := f } :=
  ⟨h.cfg, h.pix_length, h.n_le, h.unconfigured, h.ready, h.seq, h.run, h.queue_le, h.stopped, h.devices⟩

/-- An index below `N` names an entry of the buffer (rules R22, R49). -/
theorem Inv.index_lt {s : State} (h : Inv s) {ix : BitVec 32} (hi : ix.toNat < s.n.toNat) :
    ix.toNat < s.pix.length := by
  rw [h.pix_length]; exact Nat.lt_of_lt_of_le hi h.n_le

end Sys2Proof.Machine
end

