-- ==== Sys2Proof/Laws/Sequencer.lean ====
section
/-! SUPPORT. What the sequencer does, said once: the state a completed micro-operation leaves, the run of a list of
entries that cannot be denied, and the end of a command. -/

namespace Sys2Proof.Machine

/-! ### One micro-operation -/

/-- What a bus event does to the devices: a store of a known register reaches it, nothing else does (rule R242). -/
def storeUop (p : Params) (k : Nat) (d : Devices) : Uop → Devices
  | .st w ix v => match p.regmap.reg? w ix with
    | some r => d.store p r v k
    | none => d
  | .chopen | .map _ | .ld _ _ | .wait _ | .unmap _ | .chclose => d

/-- The devices after a list of bus events, each followed by the serializer's periods. -/
def devRun (p : Params) : List Uop → List Nat → Nat → Devices → Devices
  | [], _, _, d => d
  | u :: us, ticks, k, d =>
    devRun p us ticks.tail (k + 1) ((storeUop p k d u).serialize p (ticks.headD 0))

theorem State.doSt_eq (s : State) (w : Window) (ix : BitVec 16) (v : Word) :
    s.doSt w ix v =
      s.afterUop (encode (.st w ix v)) (storeUop s.cfg s.env.draws s.dev (.st w ix v)) := rfl

theorem State.doWait_eq (s : State) (t : Interval) :
    s.doWait t = s.afterUop (encode (.wait t)) s.dev := rfl

theorem State.doUnmap_eq (s : State) (w : Window) :
    s.doUnmap w = { s.afterUop (encode (.unmap w)) s.dev with mapped := s.mapped.set w false } := rfl

theorem State.doChclose_eq (s : State) :
    s.doChclose = { s.afterUop (encode .chclose) s.dev with chan := .closed } := rfl

theorem State.grantAt_zero (s : State) : s.grantAt 0 = s.grantAnswer := rfl

theorem State.doChopen_granted (s : State) (h : s.grantAnswer = true) :
    s.doChopen = { s.afterUop (encode .chopen) s.dev with
      chan := .opened
      env := ⟨s.env.grants.tail, s.env.loads, s.env.ticks.tail, s.env.draws + 1⟩ } := by
  simp only [State.doChopen, h, if_true]; rfl

theorem State.doChopen_denied (s : State) (h : s.grantAnswer = false) :
    s.doChopen = { s.afterDenial.afterUop (encode .chopen) s.dev with
      env := ⟨s.env.grants.tail, s.env.loads, s.env.ticks.tail, s.env.draws + 1⟩ } := by
  simp only [State.doChopen, h]; rfl

theorem State.doMap_granted (s : State) (w : Window) (h : s.grantAnswer = true) :
    s.doMap w = { s.afterUop (encode (.map w)) s.dev with
      mapped := s.mapped.set w true
      env := ⟨s.env.grants.tail, s.env.loads, s.env.ticks.tail, s.env.draws + 1⟩ } := by
  simp only [State.doMap, h, if_true]; rfl

theorem State.doMap_denied (s : State) (w : Window) (h : s.grantAnswer = false) :
    s.doMap w = { s.afterDenial.afterUop (encode (.map w)) s.dev with
      env := ⟨s.env.grants.tail, s.env.loads, s.env.ticks.tail, s.env.draws + 1⟩ } := by
  simp only [State.doMap, h]; rfl

theorem State.doLd_eq (s : State) (w : Window) (ix : BitVec 16) :
    s.doLd w ix = { s.afterUop (encode (.ld w ix)) s.dev with
      fselV := s.loadAnswer
      env := ⟨s.env.grants, s.env.loads.tail, s.env.ticks.tail, s.env.draws + 1⟩ } := rfl

/-! ### Running entries -/

/-- One entry of a micro-program. -/
def State.runEntry (s : State) (m : MicroOp) : State := (m.prepare s).doUop (m.uop (m.prepare s))

theorem State.microStep_entry (s : State) (m : MicroOp) (h : s.run.prog[s.seq.idx]? = some m) :
    s.microStep = s.runEntry m := by
  simp only [State.microStep, h, State.runEntry]

theorem State.microStep_end (s : State) (h : s.run.prog[s.seq.idx]? = none) :
    s.microStep = s.finish := by
  simp only [State.microStep, h]

/-- No micro-operation ends the command or changes its phase. -/
@[simp] theorem State.runEntry_phase (s : State) (m : MicroOp) :
    (s.runEntry m).seq.phase = s.seq.phase := by
  have h : ∀ (t : State) (u : Uop), (t.doUop u).seq.phase = t.seq.phase := by
    intro t u
    cases u <;> simp only [State.doUop, State.doChopen, State.doMap] <;> (try split) <;> rfl
  rw [State.runEntry, h]; cases m <;> rfl

@[simp] theorem State.runEntry_idx (s : State) (m : MicroOp) :
    (s.runEntry m).seq.idx = s.seq.idx + 1 := by
  have h : ∀ (t : State) (u : Uop), (t.doUop u).seq.idx = t.seq.idx + 1 := by
    intro t u
    cases u <;> simp only [State.doUop, State.doChopen, State.doMap] <;> (try split) <;> rfl
  rw [State.runEntry, h]; cases m <;> rfl

/-- An entry that asks the environment for no grant, so that it cannot be denied. -/
def MicroOp.undeniable : MicroOp → Bool
  | .bus .chopen | .bus (.map _) => false
  | .bus (.ld _ _) | .bus (.st _ _ _) | .bus (.wait _) | .bus (.unmap _) | .bus .chclose
  | .initThenLoad | .storeFsel | .storeWord _ => true

theorem State.runEntry_run (s : State) (m : MicroOp) (h : m.undeniable = true) :
    (s.runEntry m).run = s.run := by
  cases m with
  | bus u => cases u <;> simp [MicroOp.undeniable] at h <;> rfl
  | initThenLoad => rfl
  | storeFsel => rfl
  | storeWord w => rfl

/-- The end of a command leaves the sequencer idle. -/
theorem State.finish_phase (s : State) (h : s.seq.phase ≠ .idle) : s.finish.seq.phase = .idle := by
  rcases hc : s.run.code with _ | _ | _ | _ | _ | _ <;> rcases hp : s.seq.phase with _ | _ | _ | _ <;>
    simp_all [State.finish, Seq.idle]

theorem runToIdle_idle (fuel : Nat) (s : State) (h : s.seq.phase = .idle) : runToIdle fuel s = s := by
  cases fuel <;> simp [runToIdle, h]

theorem runToIdle_step (fuel : Nat) (s : State) (h : s.seq.phase ≠ .idle) :
    runToIdle (fuel + 1) s = runToIdle fuel s.microStep := by
  simp [runToIdle, h]

/-- The rest of a micro-program that cannot be denied runs entry by entry to its end. -/
theorem runToIdle_undeniable (rest : List MicroOp) (fuel : Nat) (s : State)
    (hp : s.seq.phase ≠ .idle) (hr : s.run.prog.drop s.seq.idx = rest)
    (hu : ∀ m ∈ rest, m.undeniable = true) (hf : rest.length < fuel) :
    runToIdle fuel s = (rest.foldl State.runEntry s).finish := by
  induction rest generalizing fuel s with
  | nil =>
    obtain ⟨fuel, rfl⟩ : ∃ f, fuel = f + 1 := ⟨fuel - 1, by simp at hf; omega⟩
    have hn : s.run.prog[s.seq.idx]? = none := by
      have := congrArg List.length hr
      simp at this
      simp; omega
    rw [runToIdle_step _ _ hp, State.microStep_end _ hn]
    exact runToIdle_idle _ _ (State.finish_phase s hp)
  | cons m rest ih =>
    obtain ⟨fuel, rfl⟩ : ∃ f, fuel = f + 1 := ⟨fuel - 1, by simp at hf; omega⟩
    have hm : s.run.prog[s.seq.idx]? = some m := by
      have := congrArg (fun l => l[0]?) hr
      simpa using this
    have hrest : s.run.prog.drop (s.seq.idx + 1) = rest := by
      rw [← List.drop_drop, hr]; rfl
    rw [runToIdle_step _ _ hp, State.microStep_entry _ _ hm]
    have hun : m.undeniable = true := hu m (by simp)
    rw [ih fuel (s.runEntry m) (by simpa using hp)
      (by rw [State.runEntry_run _ _ hun, State.runEntry_idx]; exact hrest)
      (fun x hx => hu x (by simp [hx])) (by simp at hf; omega)]
    rfl

/-- An entry that only stores or waits. -/
def MicroOp.quiet : MicroOp → Bool
  | .bus (.st _ _ _) | .bus (.wait _) | .storeFsel | .storeWord _ => true
  | .bus .chopen | .bus (.map _) | .bus (.ld _ _) | .bus (.unmap _) | .bus .chclose
  | .initThenLoad => false

theorem State.runEntry_quiet (s : State) (m : MicroOp) (h : m.quiet = true) :
    s.runEntry m = s.afterUop (encode (m.uop s).toInstr) (storeUop s.cfg s.env.draws s.dev (m.uop s)) := by
  cases m with
  | bus u => cases u <;> simp [MicroOp.quiet] at h <;> rfl
  | initThenLoad => simp [MicroOp.quiet] at h
  | storeFsel => rfl
  | storeWord w => rfl

/-- What a list of stores and waits leaves: their records, the time that passed and the devices. -/
theorem foldl_quiet (ms : List MicroOp) (s : State) (h : ∀ m ∈ ms, m.quiet = true) :
    ms.foldl State.runEntry s = { s with
      tr := s.tr ++ ms.map (fun m => encode (m.uop s).toInstr)
      seq := ⟨s.seq.phase, s.seq.idx + ms.length⟩
      env := ⟨s.env.grants, s.env.loads, s.env.ticks.drop ms.length, s.env.draws + ms.length⟩
      dev := devRun s.cfg (ms.map fun m => m.uop s) s.env.ticks s.env.draws s.dev } := by
  induction ms generalizing s with
  | nil => simp [devRun]
  | cons m ms ih =>
    have hu : ∀ x : MicroOp, x.uop (s.afterUop (encode (m.uop s).toInstr)
        (storeUop s.cfg s.env.draws s.dev (m.uop s))) = x.uop s := by
      intro x; cases x <;> rfl
    rw [List.foldl_cons, State.runEntry_quiet s m (h m (by simp)), ih _ (fun x hx => h x (by simp [hx]))]
    simp only [hu]
    simp only [State.afterUop, List.map_cons, devRun, List.length_cons]
    congr 1
    · congr 1; omega
    · simp
    · congr 1
      · simp
      · omega

theorem devRun_append (p : Params) (us vs : List Uop) (ticks : List Nat) (k : Nat) (d : Devices) :
    devRun p (us ++ vs) ticks k d =
      devRun p vs (ticks.drop us.length) (k + us.length) (devRun p us ticks k d) := by
  induction us generalizing ticks k d with
  | nil => simp [devRun]
  | cons u us ih =>
    simp only [List.cons_append, devRun, ih, List.length_cons]
    congr 1
    · simp
    · omega

/-- With no store among them, bus events leave the devices to the serializer alone. -/
theorem devRun_noStore (p : Params) (us : List Uop) (ticks : List Nat) (k : Nat) (d : Devices)
    (h : ∀ u ∈ us, ∀ k d, storeUop p k d u = d) :
    devRun p us ticks k d = d.serialize p (ticks.take us.length).sum := by
  induction us generalizing ticks k d with
  | nil => simp [devRun]
  | cons u us ih =>
    rw [devRun, h u (by simp), ih _ _ _ (fun x hx => h x (by simp [hx]))]
    cases ticks with
    | nil => simp
    | cons t ticks => simp [Devices.serialize_add]

/-! ### The programs -/

theorem showProgram_quiet (p : Params) (m : Nat) : ∀ x ∈ showProgram p m, x.quiet = true := by
  intro x hx
  simp only [showProgram, queuePhase, List.mem_append, List.mem_flatMap, List.mem_cons] at hx
  rcases hx with ((rfl | rfl | rfl | rfl | rfl | rfl | h) | ⟨w, _, rfl | rfl | h⟩) | rfl | h <;>
    first
    | rfl
    | simp at h

theorem MicroOp.undeniable_of_quiet (m : MicroOp) (h : m.quiet = true) : m.undeniable = true := by
  cases m with
  | bus u => cases u <;> simp_all [MicroOp.quiet, MicroOp.undeniable]
  | initThenLoad => rfl
  | storeFsel => rfl
  | storeWord w => rfl

theorem queuePhase_length (m : Nat) : (queuePhase m).length = 2 * m := by
  simp [queuePhase, List.length_flatMap, Nat.mul_comm]

theorem showProgram_length (p : Params) (m : Nat) : (showProgram p m).length = 7 + 2 * m := by
  simp [showProgram, queuePhase_length]; omega

end Sys2Proof.Machine
end

