-- ==== Sys2Proof/Laws/Life.lean ====
section
/-! SUPPORT. The runs of the three micro-programs, said once: what CREATE leaves when every request is granted and
when one is denied (rules R146, R150), what SHOW leaves (rule R217), what DESTROY leaves (rule R160). The
devices stand as `devRun` of the program's own bus events. -/

namespace Sys2Proof.Machine

/-! ### Acquisitions: `CHOPEN` and `MAP` -/

/-- A bus event that asks the environment for a grant. -/
def acquires : Uop → Bool
  | .chopen | .map _ => true
  | .ld _ _ | .st _ _ _ | .wait _ | .unmap _ | .chclose => false

/-- What a granted acquisition makes of the bookkeeping (rules R122, R123). -/
def State.acquired (s : State) : Uop → State
  | .chopen => { s with chan := .opened }
  | .map w => { s with mapped := s.mapped.set w true }
  | .ld _ _ | .st _ _ _ | .wait _ | .unmap _ | .chclose => s

/-- The state after a granted acquisition. -/
def State.granted (s : State) (u : Uop) : State :=
  { (s.acquired u).afterUop (encode u.toInstr) s.dev with
    env := ⟨s.env.grants.tail, s.env.loads, s.env.ticks.tail, s.env.draws + 1⟩ }

/-- The state after a denied acquisition. -/
def State.denied (s : State) (u : Uop) : State :=
  { s.afterDenial.afterUop (encode u.toInstr) s.dev with
    env := ⟨s.env.grants.tail, s.env.loads, s.env.ticks.tail, s.env.draws + 1⟩ }

theorem State.granted_seq (s : State) (u : Uop) :
    (s.granted u).seq = ⟨s.seq.phase, s.seq.idx + 1⟩ := by cases u <;> rfl

theorem State.granted_run (s : State) (u : Uop) : (s.granted u).run = s.run := by cases u <;> rfl

theorem State.grantAt_granted (s : State) (u : Uop) (k : Nat) :
    (s.granted u).grantAt k = s.grantAt (k + 1) := by
  have : s.env.draws + 1 + k = s.env.draws + (k + 1) := by omega
  simp [State.granted, State.grantAt, this]

theorem runToIdle_granted (fuel : Nat) (s : State) (u : Uop) (hp : s.seq.phase ≠ .idle)
    (hm : s.run.prog[s.seq.idx]? = some (.bus u)) (hu : acquires u = true) (hg : s.grantAt 0 = true) :
    runToIdle (fuel + 1) s = runToIdle fuel (s.granted u) := by
  rw [runToIdle_step _ _ hp, State.microStep_entry _ _ hm]
  cases u <;> simp [acquires] at hu
  · rw [show s.runEntry (.bus .chopen) = s.doChopen from rfl, State.doChopen_granted s hg]; rfl
  · rw [show s.runEntry (.bus (.map _)) = s.doMap _ from rfl, State.doMap_granted s _ hg]; rfl

theorem runToIdle_denied (fuel : Nat) (s : State) (u : Uop) (hp : s.seq.phase ≠ .idle)
    (hm : s.run.prog[s.seq.idx]? = some (.bus u)) (hu : acquires u = true) (hg : s.grantAt 0 = false) :
    runToIdle (fuel + 1) s = runToIdle fuel (s.denied u) := by
  rw [runToIdle_step _ _ hp, State.microStep_entry _ _ hm]
  cases u <;> simp [acquires] at hu
  · rw [show s.runEntry (.bus .chopen) = s.doChopen from rfl, State.doChopen_denied s hg]; rfl
  · rw [show s.runEntry (.bus (.map _)) = s.doMap _ from rfl, State.doMap_denied s _ hg]; rfl

/-- A row of acquisitions, all granted. -/
theorem runToIdle_allGranted (us : List Uop) (rest : List MicroOp) (fuel : Nat) (s : State)
    (hp : s.seq.phase ≠ .idle) (hm : s.run.prog.drop s.seq.idx = us.map MicroOp.bus ++ rest)
    (hu : ∀ u ∈ us, acquires u = true) (hg : ∀ j < us.length, s.grantAt j = true) :
    runToIdle (fuel + us.length) s = runToIdle fuel (us.foldl State.granted s) := by
  induction us generalizing s with
  | nil => rfl
  | cons u us ih =>
    have h0 : s.run.prog[s.seq.idx]? = some (.bus u) := by
      have := congrArg (fun l => l[0]?) hm
      simpa using this
    have ht : s.run.prog.drop (s.seq.idx + 1) = us.map MicroOp.bus ++ rest := by
      rw [← List.drop_drop, hm]; rfl
    rw [List.length_cons, ← Nat.add_assoc,
      runToIdle_granted _ s u hp h0 (hu u (by simp)) (hg 0 (by simp)), List.foldl_cons]
    refine ih _ ?_ ?_ (fun v hv => hu v (by simp [hv])) (fun j hj => ?_)
    · rw [State.granted_seq]; exact hp
    · rw [State.granted_run, State.granted_seq]; exact ht
    · rw [State.grantAt_granted]; exact hg (j + 1) (by simpa using hj)

theorem foldl_granted (us : List Uop) (s : State) :
    (us.foldl State.granted s).seq = ⟨s.seq.phase, s.seq.idx + us.length⟩ ∧
    (us.foldl State.granted s).run = s.run ∧
    ∀ j, (us.foldl State.granted s).grantAt j = s.grantAt (us.length + j) := by
  induction us generalizing s with
  | nil => simp
  | cons u us ih =>
    obtain ⟨h1, h2, h3⟩ := ih (s.granted u)
    refine ⟨?_, ?_, fun j => ?_⟩
    · rw [List.foldl_cons, h1, State.granted_seq, List.length_cons, Nat.add_assoc, Nat.add_comm 1]
    · rw [List.foldl_cons, h2, State.granted_run]
    · rw [List.foldl_cons, h3, State.grantAt_granted, List.length_cons]; congr 1; omega

/-! ### CREATE -/

/-- The four requests of CREATE (rule R143). -/
def requests : List Uop := [.chopen, .map .gpio, .map .pwm, .map .clk]

theorem State.acceptCreate_closed (s : State) (n : BitVec 32) (hc : s.chan = .closed) :
    s.acceptCreate n = { s with
      seq := ⟨.create, 0⟩
      run := ⟨requests.map MicroOp.bus ++ configurePhase s.cfg, n, .success⟩ } := by
  simp [State.acceptCreate, createProgram, mappingPhase, hc, State.accept, requests]

theorem configurePhase_undeniable (p : Params) : ∀ m ∈ configurePhase p, m.undeniable = true := by
  simp [configurePhase, stOp, settleOp, MicroOp.undeniable]

theorem configurePhase_tail_quiet (p : Params) : ∀ m ∈ (configurePhase p).tail, m.quiet = true := by
  simp [configurePhase, stOp, settleOp, MicroOp.quiet]

/-- CREATE with every request granted (rules R141, R146). -/
theorem acceptCreate_granted (s : State) (n : BitVec 32) (hc : s.chan = .closed)
    (hg : ∀ k < 4, s.grantAt k = true) :
    (s.acceptCreate n).runCommand = { s with
      n := n
      pix := List.replicate s.cfg.capacity ⟨0#8, 0#8, 0#8⟩
      inst := .ready
      err := 0#4
      chan := .opened
      mapped := ⟨true, true, true⟩
      fselV := s.loadAt 4
      tr := s.tr ++ (createTrace s.cfg (s.loadAt 4)).map encode
      rsp := s.rsp ++ [0#32]
      seq := Seq.idle
      run := Run.idle
      env := ⟨s.env.grants.drop 4, s.env.loads.tail, s.env.ticks.drop 21, s.env.draws + 21⟩
      dev := devRun s.cfg ((configurePhase s.cfg).tail.map fun m => m.uop { s with fselV := s.loadAt 4 })
        (s.env.ticks.drop 5) (s.env.draws + 5) (s.dev.serialize s.cfg (s.periods 5)) } := by
  have hacc := s.acceptCreate_closed n hc
  rw [State.runCommand, show (s.acceptCreate n).run.prog.length + 1 = 18 + requests.length by rw [hacc]; rfl,
    runToIdle_allGranted requests (configurePhase s.cfg) 18 (s.acceptCreate n)
      (by rw [hacc]; simp) (by rw [hacc]; rfl) (by simp [requests, acquires])
      (by rw [hacc]; exact hg),
    hacc,
    runToIdle_undeniable (configurePhase s.cfg) 18 _ (by simp [requests, State.granted_seq]) rfl
      (configurePhase_undeniable s.cfg) (by simp [configurePhase]),
    show configurePhase s.cfg = .initThenLoad :: (configurePhase s.cfg).tail from rfl, List.foldl_cons,
    foldl_quiet _ _ (configurePhase_tail_quiet s.cfg)]
  have hm : ((s.mapped.set .gpio true).set .pwm true).set .clk true = ⟨true, true, true⟩ := by
    cases s.mapped; rfl
  simp only [requests, List.foldl_cons, List.foldl_nil, State.finish, State.runEntry, MicroOp.prepare,
    State.initPixels, MicroOp.uop, State.doUop, State.doLd_eq, State.granted, State.acquired, State.afterUop,
    State.respond, State.complete, State.loadAt, State.loadAnswer, State.periods, List.tail_cons, hm]
  congr 1
  · simp [createTrace, configurePhase, stOp, settleOp, stInstr, Uop.toInstr, dmacw, bitAt, divf,
      Reg.win]
  · congr 1
    · simp only [← List.drop_one, List.drop_drop]
    · simp only [← List.drop_one, List.drop_drop]; rfl
  · congr 1
    · simp only [← List.drop_one, List.drop_drop]
    · rcases s.env.ticks with _ | ⟨a, _ | ⟨b, _ | ⟨c, _ | ⟨d, _ | ⟨e, r⟩⟩⟩⟩⟩ <;> simp [Devices.serialize_add]

/-- CREATE whose request `u`, after the granted ones `us`, is denied: the cleanup of `us`, then the error. -/
theorem acceptCreate_firstDenied (s : State) (n : BitVec 32) (us rest : List Uop) (u : Uop)
    (hc : s.chan = .closed) (hr : requests = us ++ u :: rest)
    (hg : ∀ j < us.length, s.grantAt j = true) (hd : s.grantAt us.length = false)
    (clean : List MicroOp)
    (hclean : ((us.foldl State.granted (s.acceptCreate n)).denied u).run.prog.drop
      ((us.foldl State.granted (s.acceptCreate n)).denied u).seq.idx = clean)
    (hun : ∀ m ∈ clean, m.undeniable = true) (hlen : clean.length < 17) :
    (s.acceptCreate n).runCommand =
      (clean.foldl State.runEntry ((us.foldl State.granted (s.acceptCreate n)).denied u)).finish := by
  have hacc := s.acceptCreate_closed n hc
  have hphase : (s.acceptCreate n).seq = ⟨.create, 0⟩ := by rw [hacc]
  have hprog : (s.acceptCreate n).run.prog =
      us.map MicroOp.bus ++ (.bus u :: (rest.map MicroOp.bus ++ configurePhase s.cfg)) := by
    rw [hacc, hr]; simp
  have hacq : ∀ v ∈ requests, acquires v = true := by simp [requests, acquires]
  have hsz : us.length + (rest.length + 1) = 4 := by
    have := congrArg List.length hr
    simpa [requests] using this.symm
  obtain ⟨f1, f2, f3⟩ := foldl_granted us (s.acceptCreate n)
  rw [State.runCommand,
    show (s.acceptCreate n).run.prog.length + 1 = (17 + rest.length + 1) + 1 + us.length by
      rw [hprog]; simp [configurePhase]; omega,
    runToIdle_allGranted us _ _ (s.acceptCreate n) (by rw [hphase]; simp) (by rw [hprog, hphase]; rfl)
      (fun v hv => hacq v (by rw [hr]; simp [hv])) (fun j hj => by rw [hacc]; exact hg j hj),
    runToIdle_denied _ _ u (by rw [f1, hphase]; simp) (by rw [f1, f2, hprog, hphase]; simp)
      (hacq u (by rw [hr]; simp)) (by rw [f3, hacc]; exact hd)]
  refine runToIdle_undeniable clean _ _ ?_ hclean hun (by omega)
  show (us.foldl State.granted (s.acceptCreate n)).seq.phase ≠ .idle
  rw [f1, hphase]; simp

/-- The cleanup when the `k`-th request is denied (the table of rule R150). -/
def cleanupAfter : Nat → List MicroOp
  | 0 => []
  | 1 => [.bus .chclose]
  | 2 => [.bus (.unmap .gpio), .bus .chclose]
  | _ => [.bus (.unmap .pwm), .bus (.unmap .gpio), .bus .chclose]

/-- CREATE whose `k`-th request is the first one denied (rule R150). -/
theorem acceptCreate_denied (s : State) (n : BitVec 32) (k : Nat) (hc : s.chan = .closed)
    (hm : s.mapped = Mapped.none) (hk : k < 4) (hg : ∀ j < k, s.grantAt j = true)
    (hd : s.grantAt k = false) :
    (s.acceptCreate n).runCommand = { s with
      err := 3#4
      rsp := s.rsp ++ [0x30000000#32]
      chan := .closed
      mapped := ⟨false, false, false⟩
      seq := Seq.idle
      run := Run.idle
      tr := s.tr ++ (deniedTrace k).map encode
      env := ⟨s.env.grants.drop (k + 1), s.env.loads, s.env.ticks.drop (deniedTrace k).length,
        s.env.draws + (deniedTrace k).length⟩
      dev := s.dev.serialize s.cfg (s.periods (deniedTrace k).length) } := by
  have hacc := s.acceptCreate_closed n hc
  have hgo : ∀ (us rest : List Uop) (u : Uop) (clean : List MicroOp), us.length = k →
      requests = us ++ u :: rest →
      ((us.foldl State.granted (s.acceptCreate n)).denied u).run.prog.drop
        ((us.foldl State.granted (s.acceptCreate n)).denied u).seq.idx = clean →
      (∀ m ∈ clean, m.undeniable = true) → clean.length < 17 → (s.acceptCreate n).runCommand =
        (clean.foldl State.runEntry ((us.foldl State.granted (s.acceptCreate n)).denied u)).finish := by
    intro us rest u clean hl hr h1 h2 h3
    exact acceptCreate_firstDenied s n us rest u hc hr (hl ▸ hg) (hl ▸ hd) clean h1 h2 h3
  have hrun : (s.acceptCreate n).runCommand =
      ((cleanupAfter k).foldl State.runEntry
        (((requests.take k).foldl State.granted (s.acceptCreate n)).denied (requests.getD k .chopen))).finish := by
    obtain rfl | rfl | rfl | rfl : k = 0 ∨ k = 1 ∨ k = 2 ∨ k = 3 := by omega
    · exact hgo [] [.map .gpio, .map .pwm, .map .clk] .chopen [] rfl rfl (by rw [hacc]; rfl) (by simp) (by simp)
    · exact hgo [.chopen] [.map .pwm, .map .clk] (.map .gpio) [.bus .chclose] rfl rfl (by rw [hacc]; rfl)
        (by simp [MicroOp.undeniable]) (by simp)
    · exact hgo [.chopen, .map .gpio] [.map .clk] (.map .pwm) [.bus (.unmap .gpio), .bus .chclose] rfl rfl
        (by rw [hacc]; rfl) (by simp [MicroOp.undeniable]) (by simp)
    · exact hgo [.chopen, .map .gpio, .map .pwm] [] (.map .clk)
        [.bus (.unmap .pwm), .bus (.unmap .gpio), .bus .chclose] rfl rfl (by rw [hacc]; rfl)
        (by simp [MicroOp.undeniable]) (by simp)
  rw [hrun, hacc]
  obtain rfl | rfl | rfl | rfl : k = 0 ∨ k = 1 ∨ k = 2 ∨ k = 3 := by omega
  all_goals
    simp only [cleanupAfter, requests, List.take, List.getD_cons_zero, List.getD_cons_succ, List.foldl_cons, List.foldl_nil, State.runEntry, MicroOp.prepare, MicroOp.uop, State.doUop,
      State.doChclose_eq, State.doUnmap_eq, State.finish, State.denied, State.granted, State.acquired,
      State.afterDenial, State.afterUop, State.raise, State.complete, State.periods, deniedTrace]
    congr 1
    all_goals first
      | (rw [hm]; rfl)
      | (simp [Uop.toInstr]; done)
      | (congr 1 <;> simp only [← List.drop_one, List.drop_drop] <;> rfl)
      | (rcases s.env.ticks with
          _ | ⟨x7, _ | ⟨x6, _ | ⟨x5, _ | ⟨x4, _ | ⟨x3, _ | ⟨x2, _ | ⟨x1, _⟩⟩⟩⟩⟩⟩⟩ <;>
            simp [Devices.serialize_add])

/-! ### SHOW -/

/-- The symbolic queue stores of SHOW are those of the encoder's words (rules R217, R221). -/
theorem showProgram_events (s : State) :
    (showProgram s.cfg (wordCount s.n.toNat)).map (fun m => encode (m.uop s.acceptShow).toInstr) =
      (showTrace s.cfg (encodeQueue s.pix s.n.toNat)).map encode := by
  have h : ∀ (q : List Word) (f : Nat → Word) (m : Nat), q = (List.range m).map f →
      ((List.range m).flatMap fun w =>
        [Instr.st .pwm (s.cfg.regmap.regField .fifo) (q.getD w 0#32), .wait .fifoGap]) =
      q.flatMap (fun v => [stInstr s.cfg .fifo v, .wait .fifoGap]) := by
    rintro q f m rfl
    rw [List.flatMap_map]
    apply List.flatMap_congr
    intro w hw
    have : w < m := by simpa using hw
    simp [this, stInstr, Reg.win]
  have hq := h (encodeQueue s.pix s.n.toNat) _ (wordCount s.n.toNat)
    (by simp only [encodeQueue, encodeWave, List.map_map]; rfl)
  simp only [showTrace, ← hq, showProgram, queuePhase, List.map_append, List.map_flatMap]
  rfl

/-- SHOW (rules R216, R217). -/
theorem acceptShow_run (s : State) :
    s.acceptShow.runCommand = { s with
      wave := encodeWave s.pix s.n.toNat
      q := encodeQueue s.pix s.n.toNat
      err := 0#4
      tr := s.tr ++ (showTrace s.cfg (encodeQueue s.pix s.n.toNat)).map encode
      rsp := s.rsp ++ [0#32]
      seq := Seq.idle
      run := Run.idle
      env := ⟨s.env.grants, s.env.loads, s.env.ticks.drop (7 + 2 * wordCount s.n.toNat),
        s.env.draws + (7 + 2 * wordCount s.n.toNat)⟩
      dev := devRun s.cfg ((showProgram s.cfg (wordCount s.n.toNat)).map fun m => m.uop s.acceptShow)
        s.env.ticks s.env.draws s.dev } := by
  have hq := showProgram_quiet s.cfg (wordCount s.n.toNat)
  rw [State.runCommand, runToIdle_undeniable (showProgram s.cfg (wordCount s.n.toNat)) _ _
    (by simp [State.acceptShow]) (by simp [State.acceptShow])
    (fun m hm => MicroOp.undeniable_of_quiet m (hq m hm)) (by simp [State.acceptShow]), foldl_quiet _ _ hq,
    showProgram_events, showProgram_length]
  rfl

/-! ### DESTROY -/

/-- DESTROY (rules R159, R160). -/
theorem acceptDestroy_run (s : State) :
    s.acceptDestroy.runCommand = { s with
      n := 0#32
      inst := .unconfigured
      err := 0#4
      chan := .closed
      mapped := ⟨false, false, false⟩
      tr := s.tr ++ destroyTrace.map encode
      rsp := s.rsp ++ [0#32]
      seq := Seq.idle
      run := Run.idle
      env := ⟨s.env.grants, s.env.loads, s.env.ticks.drop 4, s.env.draws + 4⟩
      dev := s.dev.serialize s.cfg (s.periods 4) } := by
  have hm : ((s.mapped.set .clk false).set .pwm false).set .gpio false = ⟨false, false, false⟩ := by
    cases s.mapped; rfl
  rw [State.runCommand, runToIdle_undeniable destroyProgram _ _ (by simp [State.acceptDestroy]) rfl
    (by simp [destroyProgram, MicroOp.undeniable]) (by simp [State.acceptDestroy])]
  simp only [destroyProgram, List.foldl_cons, List.foldl_nil, State.runEntry, MicroOp.prepare, MicroOp.uop,
    State.doUop, State.doChclose_eq, State.doUnmap_eq, State.finish, State.acceptDestroy, State.accept,
    State.afterUop, State.respond, State.complete, State.periods, hm]
  congr 1
  · simp [destroyTrace]
  · congr 1
    simp only [← List.drop_one, List.drop_drop]
  · rcases s.env.ticks with _ | ⟨x4, _ | ⟨x3, _ | ⟨x2, _ | ⟨x1, _⟩⟩⟩⟩ <;> simp [Devices.serialize_add]

end Sys2Proof.Machine
end

