-- ==== Sys2Proof/Laws/PerInstr.lean ====
section
/-! SUPPORT. Statements for all instructions, one lemma a constructor. `PortOpcode` says that the encoder puts the
opcode or the kind of rules R92 and R100 into bits 63:60 and leaves 0 the reserved bits of the instruction's
format (rules R91, R100). -/

namespace Sys2Proof.Laws.PortOpcode

/-- Bits 63:60 hold the opcode or kind, and the reserved bits of the format are 0. -/
def Statement (i : Instr) : Prop :=
  opField (encode i) = i.opcode ∧
  (i.port = .cmd → subField (encode i) = 0#4) ∧ (i.port = .uop → uopRsvField (encode i) = 0#8)

theorem create (n : BitVec 32) : Statement (.create n) := by
  simp [Statement, encode, Instr.opcode, Instr.port]

theorem setrgb (ix : BitVec 32) (r g b : BitVec 8) : Statement (.setrgb ix r g b) := by
  simp [Statement, encode, Instr.opcode, Instr.port]

theorem setnamed (ix : BitVec 32) (name : BitVec 8) (lum : BitVec 16) :
    Statement (.setnamed ix name lum) := by
  simp [Statement, encode, Instr.opcode, Instr.port]

theorem showFrame : Statement .showFrame := by
  simp [Statement, encode, Instr.opcode, Instr.port]

theorem getpix (ix : BitVec 32) : Statement (.getpix ix) := by
  simp [Statement, encode, Instr.opcode, Instr.port]

theorem destroy : Statement .destroy := by
  simp [Statement, encode, Instr.opcode, Instr.port]

theorem chopen : Statement .chopen := by
  simp [Statement, encode, Instr.opcode, Instr.port]

theorem map (win : Window) : Statement (.map win) := by
  simp [Statement, encode, Instr.opcode, Instr.port]

theorem ld (win : Window) (reg : BitVec 16) : Statement (.ld win reg) := by
  simp [Statement, encode, Instr.opcode, Instr.port]

theorem st (win : Window) (reg : BitVec 16) (val : BitVec 32) : Statement (.st win reg val) := by
  simp [Statement, encode, Instr.opcode, Instr.port]

theorem wait (t : Interval) : Statement (.wait t) := by
  simp [Statement, encode, Instr.opcode, Instr.port]

theorem unmap (win : Window) : Statement (.unmap win) := by
  simp [Statement, encode, Instr.opcode, Instr.port]

theorem chclose : Statement .chclose := by
  simp [Statement, encode, Instr.opcode, Instr.port]

end Sys2Proof.Laws.PortOpcode
end

