-- ==== Sys2Proof/Laws/RegValues.lean ====
section
/-! SUPPORT. The bits of the values the controller stores (rule R107): reading a field back gives what was put
there, for every layout that meets rules R101 to R105; and what a store of any value can do to the devices. -/

namespace Sys2Proof.Machine

/-! ### Bits and fields -/

theorem getLsbD_bitAt (pos i : Nat) (b : Bool) :
    (bitAt pos b).getLsbD i = (b && decide (i = pos) && decide (i < 32)) := by
  cases b <;> simp [bitAt, -BitVec.getLsbD_eq_getElem]
  by_cases h : i = pos
  · simp [h]
  · by_cases h2 : i < pos
    · simp [h, h2]
    · have : i - pos ≠ 0 := by omega
      simp [h, this]

theorem getLsbD_fieldAt (pos v i : Nat) :
    (fieldAt pos v).getLsbD i = (decide (i < 32) && decide (pos ≤ i) && v.testBit (i - pos)) := by
  simp only [fieldAt, BitVec.getLsbD_shiftLeft, BitVec.getLsbD_ofNat]
  by_cases h : i < 32 <;> by_cases h2 : i < pos
  · simp [h, h2]
  · simp [h, h2, Nat.le_of_not_lt h2, show i - pos < 32 by omega]
  · simp [h]
  · simp [h]

theorem getLsbD_fieldMask (pos w i : Nat) :
    (fieldMask pos w).getLsbD i = (decide (i < 32) && decide (pos ≤ i) && decide (i < pos + w)) := by
  rw [show fieldMask pos w = fieldAt pos (2 ^ w - 1) from rfl, getLsbD_fieldAt, Nat.testBit_two_pow_sub_one]
  by_cases h : pos ≤ i
  · congr 1; simp; omega
  · simp [h]

theorem testBit_readField (pos w j : Nat) (v : Word) :
    (readField pos w v).testBit j = (decide (j < w) && v.getLsbD (pos + j)) := by
  simp [readField, Nat.testBit_mod_two_pow, Nat.testBit_shiftRight, BitVec.getLsbD]

theorem testBit_of_lt {x w j : Nat} (hx : x < 2 ^ w) (hj : w ≤ j) : x.testBit j = false :=
  Nat.testBit_lt_two_pow (Nat.lt_of_lt_of_le hx (Nat.pow_le_pow_right (by omega) hj))

/-- A field reads as `x` when its bits are those of `x`. -/
theorem readField_eq {pos w x : Nat} {v : Word} (hx : x < 2 ^ w)
    (h : ∀ j < w, v.getLsbD (pos + j) = x.testBit j) : readField pos w v = x := by
  apply Nat.eq_of_testBit_eq
  intro j
  rw [testBit_readField]
  by_cases hj : j < w
  · simp [hj, h j hj]
  · simp [hj, testBit_of_lt hx (Nat.le_of_not_lt hj)]

theorem disjointBits_iff (a b : Word) :
    disjointBits a b = true ↔ ∀ i, a.getLsbD i = true → b.getLsbD i = false := by
  constructor
  · intro h i ha
    have h1 : a &&& b = 0#32 := by simpa [disjointBits] using h
    have := congrArg (fun x : Word => x.getLsbD i) h1
    simpa [ha, -BitVec.getLsbD_eq_getElem] using this
  · intro h
    have : a &&& b = 0#32 := by
      apply BitVec.eq_of_getLsbD_eq
      intro i hi
      have hi2 := h i
      rw [BitVec.getLsbD_and]
      cases ha : a.getLsbD i
      · simp
      · rw [hi2 ha]; simp
    simp [disjointBits, this]

/-- A word that shares no bit with a field has 0 there. -/
theorem getLsbD_of_disjoint {a : Word} {pos w i : Nat} (h : disjointBits a (fieldMask pos w) = true)
    (hi : i < 32) (h1 : pos ≤ i) (h2 : i < pos + w) : a.getLsbD i = false := by
  cases ha : a.getLsbD i
  · rfl
  · have := (disjointBits_iff _ _).1 h i ha
    rw [getLsbD_fieldMask] at this
    simp [hi, h1, h2] at this

/-- Two fields that share no bit: a bit of the first lies outside the second. -/
theorem outside_of_disjoint {p w q v i : Nat} (hp : p + w ≤ 32)
    (h : disjointBits (fieldMask p w) (fieldMask q v) = true) (h1 : p ≤ i) (h2 : i < p + w) :
    i < q ∨ q + v ≤ i := by
  have hi : i < 32 := by omega
  have := (disjointBits_iff _ _).1 h i (by rw [getLsbD_fieldMask]; simp [h1, h2, hi])
  rw [getLsbD_fieldMask] at this
  simp [hi] at this
  omega

theorem fieldAt_outside {q v x i : Nat} (hx : x < 2 ^ v) (h : i < q ∨ q + v ≤ i) :
    (fieldAt q x).getLsbD i = false := by
  rw [getLsbD_fieldAt]
  by_cases hq : q ≤ i
  · simp [testBit_of_lt hx (show v ≤ i - q by omega)]
  · simp [hq]

theorem fieldAt_inside {q x j : Nat} (h : q + j < 32) : (fieldAt q x).getLsbD (q + j) = x.testBit j := by
  rw [getLsbD_fieldAt]; simp [h]

/-! ### The layout of the clock manager -/

/-- The checks of `RegMap.wfClk`, by name (rule R102). -/
structure ClkLayout (m : RegMap) : Prop where
  kill_lt : m.killPos < 32
  enable_lt : m.enablePos < 32
  src_le : m.srcPos + m.srcW ≤ 32
  divi_le : m.diviPos + m.diviW ≤ 32
  divf_le : m.divfPos + m.divfW ≤ 32
  divf_wide : 11 ≤ m.divfW
  kill_enable : m.killPos ≠ m.enablePos
  kill_src : disjointBits (fieldMask m.killPos 1) (fieldMask m.srcPos m.srcW) = true
  enable_src : disjointBits (fieldMask m.enablePos 1) (fieldMask m.srcPos m.srcW) = true
  divi_divf : disjointBits (fieldMask m.diviPos m.diviW) (fieldMask m.divfPos m.divfW) = true
  const_kill : disjointBits m.clkConst (fieldMask m.killPos 1) = true
  const_enable : disjointBits m.clkConst (fieldMask m.enablePos 1) = true
  const_src : disjointBits m.clkConst (fieldMask m.srcPos m.srcW) = true
  const_divi : disjointBits m.clkConst (fieldMask m.diviPos m.diviW) = true
  const_divf : disjointBits m.clkConst (fieldMask m.divfPos m.divfW) = true

theorem RegMap.wfClk_layout {m : RegMap} (h : m.wfClk = true) : ClkLayout m := by
  simp only [RegMap.wfClk, Bool.and_eq_true, decide_eq_true_eq] at h
  obtain ⟨⟨⟨⟨⟨⟨⟨⟨⟨⟨⟨⟨⟨⟨h1, h2⟩, h3⟩, h4⟩, h5⟩, h6⟩, h7⟩, h8⟩, h9⟩, h10⟩, h11⟩, h12⟩, h13⟩, h14⟩, h15⟩ := h
  exact ⟨h1, h2, h3, h4, h5, h6, h7, h8, h9, h10, h11, h12, h13, h14, h15⟩

variable {m : RegMap}

/-- Reading `CLKCTL(kill, enable, src)` back (rule R107). -/
theorem clkctl_fields (h : ClkLayout m) (kill enable : Bool) {src : Nat} (hs : src < 2 ^ m.srcW) :
    (clkctl m kill enable src).getLsbD m.killPos = kill ∧
    (clkctl m kill enable src).getLsbD m.enablePos = enable ∧
    readField m.srcPos m.srcW (clkctl m kill enable src) = src := by
  have hk := h.kill_lt
  have he := h.enable_lt
  have ho := fun i => outside_of_disjoint (i := i) (show m.killPos + 1 ≤ 32 by omega) h.kill_src
  have ho' := fun i => outside_of_disjoint (i := i) (show m.enablePos + 1 ≤ 32 by omega) h.enable_src
  refine ⟨?_, ?_, readField_eq hs fun j hj => ?_⟩
  · have h1 := getLsbD_of_disjoint h.const_kill hk (Nat.le_refl _) (by omega)
    have h2 := fieldAt_outside hs (ho m.killPos (by omega) (by omega))
    simp only [clkctl, BitVec.getLsbD_or, getLsbD_bitAt, h1, h2]
    simp [hk, h.kill_enable]
  · have h1 := getLsbD_of_disjoint h.const_enable he (Nat.le_refl _) (by omega)
    have h2 := fieldAt_outside hs (ho' m.enablePos (by omega) (by omega))
    simp only [clkctl, BitVec.getLsbD_or, getLsbD_bitAt, h1, h2]
    simp [he, Ne.symm h.kill_enable]
  · have hw := h.src_le
    have h1 := getLsbD_of_disjoint h.const_src (i := m.srcPos + j) (by omega) (by omega) (by omega)
    have h2 := ho m.killPos (by omega) (by omega)
    have h3 := ho' m.enablePos (by omega) (by omega)
    simp only [clkctl, BitVec.getLsbD_or, getLsbD_bitAt, h1, fieldAt_inside (show m.srcPos + j < 32 by omega)]
    simp [show m.srcPos + j ≠ m.killPos by omega, show m.srcPos + j ≠ m.enablePos by omega]

/-- Reading `CLKDIV(divi, divf)` back (rule R107). -/
theorem clkdiv_fields (h : ClkLayout m) {i f : Nat} (hi : i < 2 ^ m.diviW) (hf : f < 2 ^ m.divfW) :
    readField m.diviPos m.diviW (clkdiv m i f) = i ∧ readField m.divfPos m.divfW (clkdiv m i f) = f := by
  have hdi := h.divi_le
  have hdf := h.divf_le
  have ho := fun k => outside_of_disjoint (i := k) hdi h.divi_divf
  refine ⟨readField_eq hi fun j hj => ?_, readField_eq hf fun j hj => ?_⟩
  · have h1 := getLsbD_of_disjoint h.const_divi (i := m.diviPos + j) (by omega) (by omega) (by omega)
    have h2 := fieldAt_outside hf (ho (m.diviPos + j) (by omega) (by omega))
    simp only [clkdiv, BitVec.getLsbD_or, h1, h2, fieldAt_inside (show m.diviPos + j < 32 by omega)]
    simp
  · have h1 := getLsbD_of_disjoint h.const_divf (i := m.divfPos + j) (by omega) (by omega) (by omega)
    have h2 : m.divfPos + j < m.diviPos ∨ m.diviPos + m.diviW ≤ m.divfPos + j := by
      rcases Nat.lt_or_ge (m.divfPos + j) m.diviPos with g | g
      · exact .inl g
      · rcases Nat.lt_or_ge (m.divfPos + j) (m.diviPos + m.diviW) with g' | g'
        · have := ho (m.divfPos + j) g g'; omega
        · exact .inr g'
    have h3 := fieldAt_outside hi h2
    simp only [clkdiv, BitVec.getLsbD_or, h1, h3, fieldAt_inside (show m.divfPos + j < 32 by omega)]
    simp

/-! ### The words of the PWM block and the pin -/

/-- Reading `CTLW` back (rules R103, R107). -/
theorem ctlw_fields (h : m.wfPwmGpio = true) (en mode usef rptl pola sbit clrf : Bool) :
    (ctlw m en mode usef rptl pola sbit clrf).getLsbD m.enPos = en ∧
    (ctlw m en mode usef rptl pola sbit clrf).getLsbD m.modePos = mode ∧
    (ctlw m en mode usef rptl pola sbit clrf).getLsbD m.usefPos = usef ∧
    (ctlw m en mode usef rptl pola sbit clrf).getLsbD m.rptlPos = rptl ∧
    (ctlw m en mode usef rptl pola sbit clrf).getLsbD m.polaPos = pola ∧
    (ctlw m en mode usef rptl pola sbit clrf).getLsbD m.sbitPos = sbit ∧
    (ctlw m en mode usef rptl pola sbit clrf).getLsbD m.clrfPos = clrf := by
  simp only [RegMap.wfPwmGpio, Bool.and_eq_true, decide_eq_true_eq, List.all_cons, List.all_nil,
    List.nodup_cons, List.mem_cons, not_or] at h
  obtain ⟨⟨⟨⟨⟨l1, l2, l3, l4, l5, l6, l7, -⟩, hn⟩, -⟩, -⟩, -⟩ := h
  obtain ⟨⟨a1, a2, a3, a4, a5, a6, -⟩, ⟨b1, b2, b3, b4, b5, -⟩, ⟨c1, c2, c3, c4, -⟩, ⟨d1, d2, d3, -⟩,
    ⟨e1, e2, -⟩, ⟨f1, -⟩, -⟩ := hn
  simp only [ctlw, BitVec.getLsbD_or, getLsbD_bitAt]
  simp [l1, l2, l3, l4, l5, l6, l7, a1, a2, a3, a4, a5, a6, b1, b2, b3, b4, b5, c1, c2, c3, c4, d1, d2, d3,
    e1, e2, f1, Ne.symm a1, Ne.symm a2, Ne.symm a3, Ne.symm a4, Ne.symm a5, Ne.symm a6, Ne.symm b1,
    Ne.symm b2, Ne.symm b3, Ne.symm b4, Ne.symm b5, Ne.symm c1, Ne.symm c2, Ne.symm c3, Ne.symm c4,
    Ne.symm d1, Ne.symm d2, Ne.symm d3, Ne.symm e1, Ne.symm e2, Ne.symm f1]

/-- Reading the pin's field of `FSELW(v)` back (rules R105, R107). -/
theorem fselw_field (h : m.wfPwmGpio = true) (v : Word) :
    readField m.fselShift m.fselW (fselw m v) = m.altPwm := by
  simp only [RegMap.wfPwmGpio, Bool.and_eq_true, decide_eq_true_eq] at h
  obtain ⟨⟨-, hw⟩, ha⟩ := h
  refine readField_eq ha fun j hj => ?_
  have h6 : m.fselShift + j < 32 := by omega
  simp only [fselw, BitVec.getLsbD_or, BitVec.getLsbD_and, BitVec.getLsbD_not, fieldAt_inside h6,
    Nat.testBit_two_pow_sub_one]
  simp [hj]

/-! ### Stores -/

theorem Devices.storePwmctl_of_bits {v : Word} {kill enable : Bool} (hk : v.getLsbD m.killPos = kill)
    (he : v.getLsbD m.enablePos = enable) (k : Nat) (d : Devices) :
    d.storePwmctl m v k = { d with
      clkRun := !kill && (enable || (d.clkRun && Config.freeClkRun k))
      clkSel := if enable then readField m.srcPos m.srcW v else d.clkSel } := by
  subst hk he; rfl

theorem Devices.storeFifo_room (p : Params) (v : Word) (k : Nat) {d : Devices} (h : d.queue.length < p.qdepth) :
    d.storeFifo p v k = { d with queue := d.queue ++ [v] } := if_pos h

theorem Devices.storeFifo_full (p : Params) (v : Word) (k : Nat) {d : Devices} (h : p.qdepth ≤ d.queue.length) :
    d.storeFifo p v k = { d with pErr := Config.freeErrFlags k, envFault := some .queueOverflow } :=
  if_neg (Nat.not_lt.2 h)

/-- Everything a store can do to the queue: append to it, empty it, or leave it. -/
theorem Devices.store_queue (p : Params) (r : Reg) (v : Word) (k : Nat) (d : Devices) :
    (d.store p r v k).queue = d.queue ∨ (d.store p r v k).queue = [] ∨
    r = .fifo ∧ d.queue.length < p.qdepth ∧ (d.store p r v k).queue = d.queue ++ [v] := by
  cases r <;> try exact .inl rfl
  · by_cases h : v.getLsbD p.regmap.clrfPos = true
    · exact .inr (.inl (if_pos h))
    · exact .inl (if_neg h)
  · by_cases h : d.queue.length < p.qdepth
    · refine .inr (.inr ⟨rfl, h, ?_⟩)
      rw [show d.store p .fifo v k = d.storeFifo p v k from rfl, storeFifo_room p v k h]
    · refine .inl ?_
      rw [show d.store p .fifo v k = d.storeFifo p v k from rfl, storeFifo_full p v k (Nat.le_of_not_lt h)]

end Sys2Proof.Machine
end

