-- ==== Sys2Proof/Tests/Slice0.lean ====
section
/-! SUPPORT. Tests of the model, with the words and results of the spec's tables and vectors (`30_encoding.md`,
`95_test_vectors.md`), and a witness for the hypotheses of every statement. -/

namespace Sys2Proof.Tests

open Sys2Proof Sys2Proof.Machine

/-! ### Well-formedness: each check refuses an ill-formed term -/

/-- The layout of rule R106. -/
def lay : RegMap := RegMap.bcm2835

theorem test_wf_default : Params.vectors.wf = true := by decide
theorem test_wf_ld_unknown_register : (Instr.ld .gpio 0#16).wf lay = false := by decide
theorem test_wf_ld_other_window : (Instr.ld .pwm 40#16).wf lay = false := by decide
theorem test_wf_st_unknown_register : (Instr.st .pwm 3#16 0#32).wf lay = false := by decide
theorem test_wf_ld_fsel : (Instr.ld .gpio 1#16).wf lay = true := by decide
theorem test_wf_base_unaligned : { lay with baseGpio := 0x20200002 }.wfWindows = false := by decide
theorem test_wf_base_unaligned_pwm : { lay with basePwm := 0x2020C001 }.wfWindows = false := by decide
theorem test_wf_base_unaligned_clk : { lay with baseClk := 0x20101003 }.wfWindows = false := by decide
theorem test_wf_windows_overlap : { lay with basePwm := 0x20200FFC }.wfWindows = false := by decide
theorem test_wf_windows_overlap_clk : { lay with baseClk := 0x20200000 }.wfWindows = false := by decide
theorem test_wf_windows_overlap_pwm_clk : { lay with baseClk := 0x2020C000 }.wfWindows = false := by decide
theorem test_wf_block_unaligned : { lay with blockSize := 4095 }.wfWindows = false := by decide
theorem test_wf_block_too_large : { lay with blockSize := 262148 }.wfWindows = false := by decide
theorem test_wf_index_outside : { lay with indexPwmdiv := 1024 }.wfWindows = false := by decide
theorem test_wf_index_twice_clk : { lay with indexPwmdiv := 40 }.wfWindows = false := by decide
theorem test_wf_index_twice_pwm : { lay with indexSta := 6 }.wfWindows = false := by decide
theorem test_wf_kill_outside : { lay with killPos := 32 }.wfClk = false := by decide
theorem test_wf_enable_outside : { lay with enablePos := 32 }.wfClk = false := by decide
theorem test_wf_src_outside : { lay with srcPos := 29 }.wfClk = false := by decide
theorem test_wf_divi_outside : { lay with diviPos := 21 }.wfClk = false := by decide
theorem test_wf_divf_outside : { lay with divfPos := 21 }.wfClk = false := by decide
theorem test_wf_divf_narrow : { lay with divfW := 10 }.wfClk = false := by decide
theorem test_wf_kill_is_enable : { lay with killPos := 4 }.wfClk = false := by decide
theorem test_wf_kill_in_src : { lay with killPos := 3 }.wfClk = false := by decide
theorem test_wf_enable_in_src : { lay with enablePos := 0 }.wfClk = false := by decide
theorem test_wf_divi_meets_divf : { lay with diviPos := 11 }.wfClk = false := by decide
theorem test_wf_kill_in_const : { lay with killPos := 25 }.wfClk = false := by decide
theorem test_wf_enable_in_const : { lay with enablePos := 30 }.wfClk = false := by decide
theorem test_wf_src_in_const : { lay with srcPos := 22 }.wfClk = false := by decide
theorem test_wf_divi_in_const : { lay with diviW := 14 }.wfClk = false := by decide
theorem test_wf_divf_in_const : { lay with divfPos := 14, diviPos := 0 }.wfClk = false := by decide
theorem test_wf_ctl_outside : { lay with clrfPos := 32 }.wfPwmGpio = false := by decide
theorem test_wf_ctl_twice : { lay with sbitPos := 4 }.wfPwmGpio = false := by decide
theorem test_wf_dma_outside : { lay with dmaEnablePos := 32 }.wfPwmGpio = false := by decide
theorem test_wf_fsel_outside : { lay with fselShift := 30 }.wfPwmGpio = false := by decide
theorem test_wf_alt_too_wide : { lay with altPwm := 8 }.wfPwmGpio = false := by decide
theorem test_wf_capacity_zero : { Params.vectors with capacity := 0 }.wf = false := by decide
theorem test_wf_capacity_too_large : { Params.vectors with capacity := 59652324 }.wf = false := by decide
theorem test_wf_capacity_largest : { Params.vectors with capacity := 59652323 }.wf = true := by decide
theorem test_wf_divint_too_wide : { Params.vectors with divInt := 4096 }.wf = false := by decide
theorem test_wf_frac_too_wide : { Params.vectors with divFrac16 := 65536 }.wf = false := by decide
theorem test_wf_clksrc_too_wide : { Params.vectors with clkSrc := 16 }.wf = false := by decide
theorem test_wf_qdepth_zero : { Params.vectors with qdepth := 0 }.wf = false := by decide
theorem test_wf_regmap : { Params.vectors with regmap := { lay with divfW := 10 } }.wf = false := by decide

/-! ### Decoding: words written out from the patterns of rules R92 and R100 -/

theorem test_decode_create :
    decodeCmd 0b0001_0000_000000000000000000000000_10000000000000000000000000000001#64
      = .ok (.create 0x80000001#32) := by decide
theorem test_decode_setrgb :
    decodeCmd 0b0010_0000_10101011_11001101_11101111_00000000000000000000000000000010#64
      = .ok (.setrgb 2#32 0xAB#8 0xCD#8 0xEF#8) := by decide
theorem test_decode_setnamed :
    decodeCmd 0b0011_0000_00000001_1111111100000000_00000000000000000000000000000011#64
      = .ok (.setnamed 3#32 1#8 0xFF00#16) := by decide
theorem test_decode_show :
    decodeCmd 0b0100_0000_000000000000000000000000_00000000000000000000000000000000#64
      = .ok .showFrame := by decide
theorem test_decode_getpix :
    decodeCmd 0b0101_0000_000000000000000000000000_11111111111111111111111111111111#64
      = .ok (.getpix 0xFFFFFFFF#32) := by decide
theorem test_decode_destroy :
    decodeCmd 0b0110_0000_000000000000000000000000_00000000000000000000000000000000#64
      = .ok .destroy := by decide
theorem test_decode_chopen :
    decodeUop 0b0001_0000_00000000_0000000000000000_00000000000000000000000000000000#64
      = .ok .chopen := by decide
theorem test_decode_map :
    decodeUop 0b0010_0011_00000000_0000000000000000_00000000000000000000000000000000#64
      = .ok (.map .clk) := by decide
theorem test_decode_ld :
    decodeUop 0b0011_0001_00000000_0000000000000001_00000000000000000000000000000000#64
      = .ok (.ld .gpio 1#16) := by decide
theorem test_decode_st :
    decodeUop 0b0100_0010_00000000_0000000000000110_10010010010010010010010010010010#64
      = .ok (.st .pwm 6#16 0x92492492#32) := by decide
theorem test_decode_wait_settle :
    decodeUop 0b0101_0000_00000000_0000000000000001_00000000000000000000000000000000#64
      = .ok (.wait .settle) := by decide
theorem test_decode_wait_gap :
    decodeUop 0b0101_0000_00000000_0000000000000010_00000000000000000000000000000000#64
      = .ok (.wait .fifoGap) := by decide
theorem test_decode_unmap :
    decodeUop 0b0110_0010_00000000_0000000000000000_00000000000000000000000000000000#64
      = .ok (.unmap .pwm) := by decide
theorem test_decode_chclose :
    decodeUop 0b0111_0000_00000000_0000000000000000_00000000000000000000000000000000#64
      = .ok .chclose := by decide

/-- V36, V46, V50: illegal words. -/
theorem test_decode_illegal :
    [0x0000000000000000#64, 0x7000000000000000#64, 0xF000000000000000#64, 0x3F00000000000000#64,
      0x1000000100000001#64, 0x1100000000000001#64, 0x4000000000000001#64, 0x4000000100000000#64,
      0x5000000100000000#64, 0x6000000000000001#64, 0x6000000100000000#64].all
        (fun w => (decodeCmd w).toOption.isNone) = true := by decide

/-- Rule R100: records no micro-operation has. -/
theorem test_decode_no_record :
    [0x0000000000000000#64, 0x8000000000000000#64, 0x1100000000000000#64, 0x2000000000000000#64,
      0x2400000000000000#64, 0x2100000100000000#64, 0x3100000100000001#64, 0x4001000000000000#64,
      0x5000000000000000#64, 0x5000000300000000#64, 0x5100000100000000#64, 0x6100000000000001#64,
      0x7000000000000001#64].all (fun w => (decodeUop w).toOption.isNone) = true := by decide

/-- V20 to V29 (`95_test_vectors.md`): the records' words. -/
theorem test_encode_vectors :
    [Instr.chopen, .map .gpio, .ld .gpio 1#16, .st .clk 40#16 0x5A000020#32, .st .pwm 6#16 0x92492492#32,
      .wait .settle, .wait .fifoGap, .unmap .clk, .chclose].map encode =
    [0x1000000000000000#64, 0x2100000000000000#64, 0x3100000100000000#64, 0x430000285A000020#64,
      0x4200000692492492#64, 0x5000000100000000#64, 0x5000000200000000#64, 0x6300000000000000#64,
      0x7000000000000000#64] := by decide

/-! ### Register values (rule R106, V33, V34) -/

theorem test_control_words :
    [cfgWord lay, cfgEn lay, cfgClr lay, clkctl lay true false 0, clkctl lay false true 1] =
      [0x22#32, 0x23#32, 0x62#32, 0x5A000020#32, 0x5A000011#32] := by decide
theorem test_fsel_words :
    [0#32, 0xFFFFFFFF#32, 0x12345678#32, 0x07000000#32, 0x05A5A5A5#32].map (fselw lay) =
      [0x02000000#32, 0xFAFFFFFF#32, 0x12345678#32, 0x02000000#32, 0x02A5A5A5#32] := by decide
theorem test_divisor_words :
    [0, 31, 32, 33, 95, 96, 32768, 65503, 65504, 65535].map (fun f => clkdiv lay 8 (divf f)) =
      [0x5A008000#32, 0x5A008000#32, 0x5A008001#32, 0x5A008001#32, 0x5A008001#32, 0x5A008002#32,
        0x5A008200#32, 0x5A0083FF#32, 0x5A008400#32, 0x5A008400#32] := by decide

/-! ### The encoder (V39, V40) -/

theorem test_encode_three_pixels :
    encodeQueue [⟨1#8, 2#8, 3#8⟩, ⟨4#8, 5#8, 6#8⟩, ⟨7#8, 8#8, 9#8⟩] 3 =
      [0x92493492#32, 0x49269249#32, 0x369249A6#32, 0x9249A492#32, 0x49B4924D#32, 0x249249B6#32,
        0x924D2600#32] := by decide
theorem test_encode_two_pixels :
    encodeWave [⟨0xAA#8, 0x55#8, 0xFF#8⟩, ⟨0x55#8, 0xAA#8, 0#8⟩] 2 =
      [0xCB659659#32, 0xB6DB2CB2#32, 0x2CB2CB6D#32, 0x49659659#32, 0x00002492#32] := by decide
theorem test_encode_empty : encodeQueue [⟨1#8, 2#8, 3#8⟩] 0 = [] := by decide
theorem test_bitrev :
    [0x2#32, 0x0000FFFF#32, 0x12345678#32, 0x924#32, 0xDEADBEEF#32].map bitrev32 =
      [0x40000000#32, 0xFFFF0000#32, 0x1E6A2C48#32, 0x24900000#32, 0xF77DB57B#32] := by decide

/-! ### States -/

/-- Reset, with an environment that grants everything and answers `v` to the load. -/
def fresh (v : Word) : State := { State.reset with env := ⟨[true, true, true, true], [v], [], 0⟩ }

/-- The devices as a CREATE with the vectors' parameters leaves them (rule R51). -/
def configured : Devices :=
  { Devices.reset with
    pMode := true, pUsef := true, pRng := 32, clkRun := true, clkDiv1024 := 8192, clkSel := 1, pinFunc := 2 }

/-- An instance of `n` pixels with the buffer `pix`, standing at a command boundary. -/
def ready (n : BitVec 32) (pix : List Color) : State :=
  { State.reset with
    pix := pix, n := n, inst := .ready, chan := .opened, mapped := Mapped.all, dev := configured }

/-- Two pixels, the second green. -/
def two : State := ready 2#32 [⟨5#8, 0#8, 0#8⟩, ⟨0#8, 255#8, 0#8⟩, ⟨0#8, 0#8, 0#8⟩, ⟨0#8, 0#8, 0#8⟩]

/-- Two pixels, with a configuration that knows the names 1 and 2 and one scaled colour. -/
def named : State :=
  { two with cfg := { Params.vectors with
      namedColors := [(1#8, some ⟨1#8, 2#8, 3#8⟩), (2#8, none)]
      lumScales := [((⟨1#8, 2#8, 3#8⟩, 0xFFFF#16), ⟨9#8, 8#8, 7#8⟩)] } }

/-- The state an outcome goes on with. -/
def after (o : Host.Outcome State Fault Refusal) : State :=
  match o with
  | .next t => t
  | .fault _ | .refused _ => State.reset

/-- The last response. -/
def said (o : Host.Outcome State Fault Refusal) : Option Word := (after o).rsp.getLast?

/-! ### Commands -/

/-- V32: the 21 records of CREATE, and its response. -/
theorem test_create_trace :
    (after (exec (.create 1#32) (fresh 0#32))).tr =
      [0x1000000000000000#64, 0x2100000000000000#64, 0x2200000000000000#64, 0x2300000000000000#64,
        0x3100000100000000#64, 0x4100000102000000#64, 0x430000285A000020#64, 0x5000000100000000#64,
        0x4200000200000000#64, 0x5000000100000000#64, 0x430000295A008000#64, 0x5000000100000000#64,
        0x430000285A000011#64, 0x5000000100000000#64, 0x4200000000000000#64, 0x5000000100000000#64,
        0x4200000400000020#64, 0x5000000100000000#64, 0x42000001000001FC#64, 0x5000000100000000#64,
        0x4200000000000022#64] := by decide

/-- V35, last row, and V36: a denied `MAP CLK` and a count above the capacity. -/
theorem test_create_errors :
    (after (exec (.create 1#32) { fresh 0#32 with env := ⟨[true, true, true, false], [], [], 0⟩ })).tr =
      [0x1000000000000000#64, 0x2100000000000000#64, 0x2200000000000000#64, 0x2300000000000000#64,
        0x6200000000000000#64, 0x6100000000000000#64, 0x7000000000000000#64] ∧
    said (exec (.create 5#32) (fresh 0#32)) = some 0x10000000#32 := by decide

/-- V43: the 13 records of SHOW. -/
theorem test_show_trace :
    (after (exec .showFrame (ready 1#32 [⟨5#8, 0#8, 0#8⟩]))).tr =
      [0x4200000000000022#64, 0x4200000000000022#64, 0x5000000100000000#64, 0x4200000000000062#64,
        0x42000001000001FC#64, 0x5000000100000000#64, 0x4200000692492492#64, 0x5000000200000000#64,
        0x4200000649A69249#64, 0x5000000200000000#64, 0x4200000624000000#64, 0x5000000200000000#64,
        0x4200000000000023#64] := by decide

/-- V39's row `(0,128,0)` on the wire (R249): the first 9 wire-bits, 4 at the enable store and 5 later. -/
theorem test_show_line :
    ((after (exec .showFrame { ready 1#32 [⟨0#8, 128#8, 0#8⟩] with
        env := ⟨[], [], [0, 0, 0, 0, 0, 0, 0, 0, 0, 0, 0, 0, 4], 0⟩ })).dev.serialize Params.vectors 5).line =
      [true, true, false, true, false, false, true, false, false].map WireItem.bit := by decide

/-- V37. -/
theorem test_destroy :
    (after (exec .destroy two)).tr =
      [0x6300000000000000#64, 0x6200000000000000#64, 0x6100000000000000#64, 0x7000000000000000#64] ∧
    said (exec .destroy (fresh 0#32)) = some 0x40000000#32 := by decide

/-- V38: a write inside the length, and one inside the capacity only. -/
theorem test_setrgb :
    (after (exec (.setrgb 1#32 0#8 0#8 255#8) two)).pix[1]? = some ⟨0#8, 0#8, 255#8⟩ ∧
    said (exec (.setrgb 2#32 1#8 2#8 3#8) two) = some 0x20000000#32 := by decide

/-- V38, last two rows. -/
theorem test_setnamed :
    (after (exec (.setnamed 0#32 1#8 0xFFFF#16) named)).pix[0]? = some ⟨9#8, 8#8, 7#8⟩ ∧
    said (exec (.setnamed 0#32 2#8 0xFFFF#16) named) = some 0x50000000#32 := by decide

/-- V6, V50. -/
theorem test_getpix :
    said (exec (.getpix 0#32) two) = some 0x00050000#32 ∧
    said (exec (.getpix 0x80000000#32) two) = some 0x20000000#32 := by decide

/-! ### Micro-operations -/

theorem test_chopen :
    (after (exec .chopen (fresh 0#32))).chan = .opened ∧
    (after (exec .chopen { fresh 0#32 with env := ⟨[false], [], [], 0⟩ })).chan = .closed := by decide
theorem test_map :
    (after (exec (.map .pwm) { fresh 0#32 with chan := .opened })).mapped = ⟨false, true, false⟩ := by decide
theorem test_ld : (after (exec (.ld .gpio 1#16) { two with env := ⟨[], [7#32], [], 0⟩ })).fselV = 7#32 := by decide
theorem test_st_fifo : (after (exec (.st .pwm 6#16 9#32) two)).dev.queue = [9#32] := by decide
theorem test_st_ctl_zero :
    (after (exec (.st .pwm 0#16 0#32) { two with dev := { configured with pEn := true } })).dev.pEn = false := by decide
/-- Rules R67, R251: kill stops the clock, with enable in the same store too. -/
theorem test_st_pwmctl_kill :
    (after (exec (.st .clk 40#16 0x5A000020#32) two)).dev.clkRun = false ∧
    (after (exec (.st .clk 40#16 0x5A000031#32) two)).dev.clkRun = false := by decide
theorem test_wait :
    (after (exec (.wait .fifoGap) two)).tr = [0x5000000200000000#64] ∧
    (after (exec (.wait .fifoGap) two)).dev = two.dev := by decide
theorem test_unmap : (after (exec (.unmap .clk) two)).mapped = ⟨true, true, false⟩ := by decide
theorem test_chclose :
    (after (exec .chclose { two with mapped := Mapped.none })).chan = .closed := by decide

/-! ### The step -/

/-- V50: the all-zero word. -/
theorem test_step_illegal : said (step { two with cmdPort := [0#64] }) = some 0x50000000#32 := by decide
theorem test_step_show :
    said (step (two.withFetchWord 64 0x4000000000000000)) = some 0#32 := by decide
theorem test_step_places_every_row :
    [(0x1000000000000001, Instr.create 1#32), (0x2005000000000000, .setrgb 0#32 5#8 0#8 0#8),
      (0x3001FFFF00000000, .setnamed 0#32 1#8 0xFFFF#16), (0x4000000000000000, .showFrame),
      (0x5000000000000000, .getpix 0#32), (0x6000000000000000, .destroy), (0x1000000000000000, .chopen),
      (0x2200000000000000, .map .pwm), (0x3100000100000000, .ld .gpio 1#16),
      (0x4200000692492492, .st .pwm 6#16 0x92492492#32), (0x5000000100000000, .wait .settle),
      (0x6100000000000000, .unmap .gpio), (0x7000000000000000, .chclose)].all
        (fun x => decodeTableWord 64 x.1 == some x.2) = true := by decide

/-! ### Witnesses: a state and operands that meet the hypotheses of each statement -/

/-- An instance of four pixels: nine words, more than the queue of eight holds. -/
def four : State := ready 4#32 (List.replicate 4 ⟨0#8, 0#8, 0#8⟩)

/-- The devices with a frame on its way: one bit of a word sent, one word waiting. -/
def shiftingDevices : Devices :=
  { configured with pEn := true, shift := some 0x92492492#32, pos := 1, queue := [0x24000000#32] }

theorem fresh_zero_inv : Inv (fresh 0#32) := by
  constructor <;> first | decide | (intro h; exact absurd h (by decide))

theorem fresh_inv (v : Word) : Inv (fresh v) :=
  fresh_zero_inv.withInputs (fresh v).env [] [] [] 0#4 [] [] 0#32

theorem two_inv : Inv two := by
  constructor <;> first | decide | (intro _; constructor <;> decide)

theorem named_inv : Inv named := by
  constructor <;> first | decide | (intro _; constructor <;> decide)

theorem four_inv : Inv four := by
  constructor <;> first | decide | (intro _; constructor <;> decide)

/-- An instance with a frame on its way. -/
def sending : State := { two with dev := shiftingDevices }

theorem sending_inv : Inv sending := by
  constructor <;> first | decide | (intro _; constructor <;> decide)

theorem witness_DecodedWordReencodesToItself :
    decodePort .cmd 0x5000000000000003#64 = .ok (.getpix 3#32) ∧
    decodePort .uop 0x5000000200000000#64 = .ok (.wait .fifoGap) := by decide

theorem witness_IllegalWordRaisesIllegalCommand :
    let s := { two with cmdPort := [0x7000000000000000#64] }
    s.seq = Seq.idle ∧ s.run = Run.idle ∧ s.cmdPort = [0x7000000000000000#64] ∧
    decodeCmd 0x7000000000000000#64 = .error .illegalOpcode := by decide

/-- Both ends of the range and the first integers outside it, for each command with an index or a count, and the
first values too large for each field. -/
theorem witness_WrittenIntegersWrapIntoTheIndexField :
    assemble (.getpix (-2147483648)) = some 0x5000000080000000#64 ∧
    assemble (.create 4294967295) = some 0x10000000FFFFFFFF#64 ∧
    assemble (.setrgb (-1) 1 2 255) = some 0x200102FFFFFFFFFF#64 ∧
    assemble (.setnamed 0 255 65535) = some 0x30FFFFFF00000000#64 ∧
    assemble (.getpix (-2147483649)) = none ∧ assemble (.create 4294967296) = none ∧
    assemble (.setrgb 4294967296 0 0 0) = none ∧ assemble (.setnamed (-2147483649) 0 0) = none ∧
    assemble (.setrgb 0 256 0 0) = none ∧ assemble (.setrgb 0 0 256 0) = none ∧
    assemble (.setrgb 0 0 0 256) = none ∧ assemble (.setnamed 0 256 0) = none ∧
    assemble (.setnamed 0 0 65536) = none := by decide

theorem witness_StepRunsDecodedInstruction :
    ({ two with cmdPort := [0x4000000000000000#64] }.seq.phase = .idle ∧
      decodePort .cmd 0x4000000000000000#64 = .ok .showFrame) ∧
    (two.acceptDestroy.seq.phase ≠ .idle ∧ two.acceptDestroy.run.prog[0]? = some (.bus (.unmap .clk))) ∧
    (let s := { two.acceptDestroy with seq := ⟨.destroy, 4⟩ }; s.seq.phase ≠ .idle ∧ s.run.prog[4]? = none) ∧
    (two.seq.phase = .idle ∧ two.cmdPort = []) := by decide

theorem witness_PlacedTableWordRunsNext :
    decodeTableWord 64 0x2005000000000000 = some (.setrgb 0#32 5#8 0#8 0#8) ∧
    decodeTableWord 64 0x4200000692492492 = some (.st .pwm 6#16 0x92492492#32) ∧
    (Instr.st .pwm 6#16 0x92492492#32).wf two.cfg.regmap = true := by decide

theorem witness_StepKeepsInvariant : Inv two ∧ ∃ t, step two = .next t := ⟨two_inv, _, rfl⟩

theorem witness_NoReachableStepStops : Inv sending := sending_inv

theorem witness_ParametersNeverChange :
    (∃ t, exec .destroy two = .next t) ∧ ∃ t, step two = .next t := ⟨⟨_, rfl⟩, _, rfl⟩

theorem witness_CreateCompletes :
    Inv (fresh 7#32) ∧ (fresh 7#32).inst = .unconfigured ∧ (4#32).toNat ≤ (fresh 7#32).cfg.capacity ∧
    (∀ k < 4, (fresh 7#32).grantAt k = true) := ⟨fresh_inv _, rfl, by decide, by decide⟩

theorem witness_CreateLeavesDevicesConfigured :
    Inv (fresh 7#32) ∧ (fresh 7#32).inst = .unconfigured ∧ (0#32).toNat ≤ (fresh 7#32).cfg.capacity ∧
    (∀ k < 4, (fresh 7#32).grantAt k = true) := ⟨fresh_inv _, rfl, by decide, by decide⟩

/-- Each row of rule R150's table. -/
theorem witness_DeniedCreateCleansUp :
    ∀ k < 4, let s := { fresh 0#32 with env := ⟨List.replicate k true ++ [false], [], [], 0⟩ }
      s.inst = .unconfigured ∧ (1#32).toNat ≤ s.cfg.capacity ∧ (∀ j < k, s.grantAt j = true) ∧
      s.grantAt k = false := by decide

theorem witness_DeniedCreateCleansUp_inv (k : Nat) :
    Inv { fresh 0#32 with env := ⟨List.replicate k true ++ [false], [], [], 0⟩ } :=
  fresh_zero_inv.withInputs _ [] [] [] 0#4 [] [] 0#32

theorem witness_OversizedCreateRaisesConfigurationError :
    Inv (fresh 0#32) ∧ (fresh 0#32).inst = .unconfigured ∧ (fresh 0#32).cfg.capacity < (5#32).toNat ∧
    ¬ (fresh 0#32).cfg.capacity < (4#32).toNat := ⟨fresh_inv _, rfl, by decide, by decide⟩

theorem witness_WrongLifeCycleRaisesStateError :
    (two.inst = .ready ∧ (fresh 0#32).inst = .unconfigured) ∧ two.seq = Seq.idle ∧ two.run = Run.idle ∧
    (fresh 0#32).seq = Seq.idle ∧ (fresh 0#32).run = Run.idle := by decide

theorem witness_DestroyCompletes : two.seq = Seq.idle ∧ two.run = Run.idle ∧ two.inst = .ready := by decide

theorem witness_SetrgbWritesPixel :
    two.seq = Seq.idle ∧ two.run = Run.idle ∧ two.inst = .ready ∧ (1#32).toNat < two.n.toNat := by decide

theorem witness_SetnamedWritesScaledColour :
    named.seq = Seq.idle ∧ named.run = Run.idle ∧ named.inst = .ready ∧ (1#32).toNat < named.n.toNat ∧
    namedColor named.cfg 1#8 = some ⟨1#8, 2#8, 3#8⟩ ∧ namedColor named.cfg 2#8 = none := by decide

theorem witness_GetpixAnswersPixel : Inv two ∧ two.inst = .ready ∧ (1#32).toNat < two.n.toNat :=
  ⟨two_inv, rfl, by decide⟩

theorem witness_InvalidIndexRaisesIndexError :
    two.seq = Seq.idle ∧ two.run = Run.idle ∧ two.inst = .ready ∧ ¬ (2#32).toNat < two.n.toNat ∧
    (1#32).toNat < two.n.toNat := by decide

theorem witness_NegativeOperandFailsTheSameCheck :
    Inv two ∧ two.inst = .ready ∧ Inv (fresh 0#32) ∧ (fresh 0#32).inst = .unconfigured ∧
    (0x80000000#32).toInt < 0 ∧ (0xFFFFFFFF#32).toInt < 0 :=
  ⟨two_inv, rfl, fresh_inv _, rfl, by decide, by decide⟩

theorem witness_PixelReadsBackAsSet : Inv two ∧ two.inst = .ready ∧ (0#32).toNat < two.n.toNat :=
  ⟨two_inv, rfl, by decide⟩

theorem witness_FailedPixelCommandLeavesBuffer :
    (after (exec (.setrgb 2#32 1#8 2#8 3#8) two)).err ≠ 0#4 := by decide

theorem witness_ShowCompletes : two.seq = Seq.idle ∧ two.run = Run.idle ∧ two.inst = .ready := by decide

/-- With a frame on its way, and a frame of seven words, the most that fits with three pixels. -/
theorem witness_ShowPutsStreamOnTheLine :
    Inv sending ∧ sending.inst = .ready ∧ wordCount sending.n.toNat ≤ sending.cfg.qdepth ∧ WireSound sending ∧
    wordCount 3 ≤ sending.cfg.qdepth := ⟨sending_inv, rfl, by decide, rfl, by decide⟩

theorem witness_ShowLeavesPeripheralEnabled :
    Inv two ∧ two.inst = .ready ∧ wordCount two.n.toNat ≤ two.cfg.qdepth := ⟨two_inv, rfl, by decide⟩

theorem witness_OverlongFrameMarksTheRun :
    Inv four ∧ four.inst = .ready ∧ four.cfg.qdepth < wordCount four.n.toNat := ⟨four_inv, rfl, by decide⟩

theorem witness_RepeatedShowRepeatsTrace : Inv two ∧ two.inst = .ready := ⟨two_inv, rfl⟩

theorem witness_QueueSpellsStream : 2 < wordCount 1 ∧ 31 < 32 ∧ 0 < wordCount 1 := by decide

theorem witness_StreamSerialisesGreenRedBlue :
    two.pix[1]? = some ⟨0#8, 255#8, 0#8⟩ ∧ [0, 7, 8, 15, 16, 23].all (fun j => decide (j < 24)) = true := by decide

theorem witness_StreamInvariants : two.n.toNat ≤ two.pix.length ∧ 3 % 3 = 0 ∧ 2 % 3 = 2 := by decide

theorem witness_ChopenOpensChannelWhenGranted :
    (fresh 0#32).chan = .closed ∧ (fresh 0#32).grantAt 0 = true ∧
    { fresh 0#32 with env := ⟨[false], [], [], 0⟩ }.grantAt 0 = false := by decide

theorem witness_MapEstablishesHandleWhenGranted :
    [Window.gpio, .pwm, .clk].all (fun w =>
      let s := { fresh 0#32 with chan := .opened }
      s.chan == .opened && s.mapped.get w == false && s.grantAt 0) = true ∧
    { fresh 0#32 with env := ⟨[false], [], [], 0⟩ }.grantAt 0 = false := by decide

theorem witness_LdReturnsEnvironmentsAnswer :
    two.cfg.wf = true ∧ Reg.all.all (fun r => two.mapped.get r.win) = true := by decide

theorem witness_StReachesItsDevice :
    two.cfg.wf = true ∧ Reg.all.all (fun r => two.mapped.get r.win) = true := by decide

theorem witness_UnmapAndChcloseRelease :
    two.mapped.get .pwm = true ∧
    { two with mapped := Mapped.none }.chan = .opened ∧
    [Window.gpio, .pwm, .clk].all (fun w => !Mapped.none.get w) = true := by decide

theorem witness_MicroOperationsKeepHostState :
    (Instr.chclose).port = .uop ∧ ∃ t, exec .chclose { two with mapped := Mapped.none } = .next t :=
  ⟨rfl, _, rfl⟩

/-- One state for each clause of the statement. -/
theorem witness_UnadmittedRequestIsStuck :
    two.chan = .opened ∧ (fresh 0#32).chan = .closed ∧ two.mapped.get .clk = true ∧
    (fresh 0#32).mapped.get .clk = false ∧
    Reg.all.all (fun r => r.win != .pwm || two.cfg.regmap.index r != (3#16).toNat) = true := by decide

theorem witness_DivisorFractionRounds : 65504 ≤ 65535 ∧ 65535 < 65536 ∧ 65504 < 65536 := by decide

theorem witness_PinFunctionStoreKeepsOtherBits :
    lay.wf = true ∧ 23 < lay.fselShift ∧ lay.fselShift + lay.fselW ≤ 27 := by decide

/-- A legal layout, and a stored value for each clause about the two bits of `PWMCTL`. -/
theorem witness_ProgrammedStoresTakeEffect :
    Params.vectors.wf = true ∧
    (let m := Params.vectors.regmap
     (0x31#32).getLsbD m.killPos = true ∧ (0x31#32).getLsbD m.enablePos = true ∧
     (0x11#32).getLsbD m.killPos = false ∧ (0x11#32).getLsbD m.enablePos = true) := by decide

theorem witness_QueueStoreAppendsOrMarks :
    { configured with queue := List.replicate 7 0#32 }.queue.length < Params.vectors.qdepth ∧
    Params.vectors.qdepth ≤ { configured with queue := List.replicate 8 0#32 }.queue.length := by decide

theorem witness_RegisterAddressesAreAlignedAndInside : lay.wf = true := by decide

/-- A stopped serializer, a word in progress up to its last bit, a finished word with and without a next one. -/
theorem witness_SerializerStepFollowsQueue :
    configured.pEn = false ∧ shiftingDevices.shifting = true ∧ shiftingDevices.pPola = false ∧
    shiftingDevices.pRptl = false ∧ shiftingDevices.pinFunc = Params.vectors.regmap.altPwm ∧
    (let d := { shiftingDevices with pos := 31 }; d.pos ≠ d.pRng ∧ d.pos < 32 ∧ d.shifting = true) ∧
    (let d := { shiftingDevices with pos := 32 }; d.pos = d.pRng ∧ d.queue = [0x24000000#32]) ∧
    (let d := { shiftingDevices with shift := none, queue := [] }; d.shift = none ∧ d.queue = []) := by decide

theorem witness_MicroStepsRefineCommands :
    Inv (fresh 0#32) ∧ (fresh 0#32).inst = .unconfigured ∧ (4#32).toNat ≤ (fresh 0#32).cfg.capacity ∧
    Inv sending ∧ sending.inst = .ready := ⟨fresh_inv _, rfl, by decide, sending_inv, rfl⟩

theorem witness_EveryCommandGivesOneResponse : Inv two ∧ (Instr.getpix 0#32).port = .cmd := ⟨two_inv, rfl⟩

theorem witness_OnlyCreateAndDestroyChangeLifeCycle :
    ∃ t, exec .showFrame two = .next t := ⟨_, rfl⟩

/-- The words of each clause: an illegal one, both wrong states, the counts 4 and 5, a denial, the indices 1 and 2, a
known and an unknown name, SHOW and DESTROY. -/
theorem witness_FirstFailedCheckIsReported :
    (decodeCmd 0#64).toOption = none ∧
    decodeCmd 0x1000000000000005#64 = .ok (.create 5#32) ∧ decodeCmd 0x1000000000000004#64 = .ok (.create 4#32) ∧
    decodeCmd 0x5000000000000001#64 = .ok (.getpix 1#32) ∧ decodeCmd 0x5000000000000002#64 = .ok (.getpix 2#32) ∧
    decodeCmd 0x3002FFFF00000001#64 = .ok (.setnamed 1#32 2#8 0xFFFF#16) ∧
    decodeCmd 0x6000000000000000#64 = .ok .destroy ∧
    two.inst = .ready ∧ (fresh 0#32).inst = .unconfigured ∧ (∀ k < 4, (fresh 0#32).grantAt k = true) ∧
    { fresh 0#32 with env := ⟨[true, true, true, false], [], [], 0⟩ }.grantAt 3 = false := by decide

theorem witness_LifeCycleFollowsTable (w : Record) :
    Inv { two with cmdPort := [w] } ∧ Inv { fresh 0#32 with cmdPort := [w] } :=
  ⟨two_inv.withInputs two.env [w] [] [] 0#4 [] [] 0#32,
   fresh_zero_inv.withInputs (fresh 0#32).env [w] [] [] 0#4 [] [] 0#32⟩

/-- Other colours at and above `N = 2`. -/
theorem witness_EntriesBeyondLengthAreUnobservable :
    Inv two ∧ ∀ p < two.n.toNat, (two.pix.take 2 ++ [⟨9#8, 9#8, 9#8⟩])[p]? = two.pix[p]? :=
  ⟨two_inv, by decide⟩

theorem witness_NothingReadsTransientState : (Instr.showFrame).port = .cmd := rfl

theorem witness_TraceIsWriteOnly : ∃ t, exec (.ld .gpio 1#16) two = .next t := ⟨_, rfl⟩

/-- Each clause: CREATE granted, an instance with a frame on its way, a pixel command. -/
theorem witness_WaitsBoundCommandTime :
    Inv (fresh 0#32) ∧ (fresh 0#32).inst = .unconfigured ∧ (4#32).toNat ≤ (fresh 0#32).cfg.capacity ∧
    (∀ k < 4, (fresh 0#32).grantAt k = true) ∧ Inv sending ∧ sending.inst = .ready ∧
    ∃ ix, Instr.getpix 0#32 = .getpix ix := ⟨fresh_inv _, rfl, by decide, by decide, sending_inv, rfl, _, rfl⟩

end Sys2Proof.Tests
end

section
/-! SUPPORT. Rule R11, the two views of a command: the check of a micro-program against rule R71 and the `require`
lines of rules R122 to R128, its soundness for the step, and the statement that both views agree. -/

namespace Sys2Proof.Machine

/-! ### Admission of one bus event -/

/-- The state of the channel and which windows have a handle. -/
abbrev Handles := ChanState × Mapped

/-- What a state holds. -/
def State.handles (s : State) : Handles := (s.chan, s.mapped)

/-- The handles after a bus event that is not denied, none where the handles before do not admit it (rule R71 and
the `require` lines of rules R122 to R128). -/
def handlesAfter (m : RegMap) (h : Handles) : Uop → Option Handles
  | .chopen => if h.1 = .closed then some (.opened, h.2) else none
  | .map w => if h.1 = .opened ∧ h.2.get w = false then some (h.1, h.2.set w true) else none
  | .ld w ix | .st w ix _ => if h.2.get w = true ∧ (m.reg? w ix).isSome then some h else none
  | .wait _ => some h
  | .unmap w => if h.2.get w = true then some (h.1, h.2.set w false) else none
  | .chclose => if h.1 = .opened ∧ h.2 = Mapped.none then some (.closed, h.2) else none

/-- An admitted bus event has its effect; it never stops. -/
theorem exec_of_handlesAfter {s : State} {u : Uop} {h' : Handles}
    (h : handlesAfter s.cfg.regmap s.handles u = some h') : exec u.toInstr s = .next (s.doUop u) := by
  cases u with
  | chopen =>
    obtain ⟨hc, -⟩ := Option.ite_none_right_eq_some.1 h
    exact if_pos hc
  | map w =>
    obtain ⟨⟨hc, hw⟩, -⟩ := Option.ite_none_right_eq_some.1 h
    exact (if_neg (not_not.2 hc)).trans (if_neg (ne_true_of_eq_false hw))
  | ld w ix | st w ix v =>
    obtain ⟨⟨hw, hr⟩, -⟩ := Option.ite_none_right_eq_some.1 h
    exact (if_neg (ne_false_of_eq_true hw)).trans (if_neg (by simpa using Option.isSome_iff_ne_none.1 hr))
  | wait t => rfl
  | unmap w =>
    obtain ⟨hw, -⟩ := Option.ite_none_right_eq_some.1 h
    exact if_pos hw
  | chclose =>
    obtain ⟨⟨hc, hm⟩, -⟩ := Option.ite_none_right_eq_some.1 h
    exact (if_neg (not_not.2 hc)).trans (if_pos hm)

/-- In a legal layout two registers of one window have different indices (rule R101, log entry 23). -/
theorem RegMap.index_injective {m : RegMap} (h : m.wf = true) {r r' : Reg} (hw : r.win = r'.win)
    (hx : m.index r = m.index r') : r = r' := by
  simp only [RegMap.wf, RegMap.wfWindows, Bool.and_eq_true, decide_eq_true_eq] at h
  obtain ⟨⟨⟨⟨-, hclk⟩, hpwm⟩, -⟩, -⟩ := h
  simp only [List.nodup_cons, List.mem_cons, not_or] at hpwm
  cases r <;> cases r' <;> simp_all [Reg.win, RegMap.index]

/-- The index of a register fits the field `REG` of a record (rules R100, R101). -/
theorem RegMap.regField_toNat {m : RegMap} (h : m.wf = true) (r : Reg) : (m.regField r).toNat = m.index r := by
  simp only [RegMap.wf, RegMap.wfWindows, Bool.and_eq_true, decide_eq_true_eq, List.all_eq_true] at h
  obtain ⟨⟨⟨⟨⟨⟨-, hsize⟩, hin⟩, -⟩, -⟩, -⟩, -⟩ := h
  have hr := hin r (by cases r <;> decide)
  simp only [RegMap.regField, BitVec.toNat_ofNat]
  omega

/-- In a legal layout the register found at a register's own window and index is that register (rules R64, R71). -/
theorem RegMap.reg?_regField {m : RegMap} (h : m.wf = true) (r : Reg) :
    m.reg? r.win (m.regField r) = some r := by
  have hfound : (m.reg? r.win (m.regField r)).isSome :=
    List.find?_isSome.2 ⟨r, by cases r <;> decide, by simp [RegMap.regField_toNat h]⟩
  obtain ⟨r', hr'⟩ := Option.isSome_iff_exists.1 hfound
  have hsame := List.find?_some hr'
  simp only [Bool.and_eq_true, beq_iff_eq, RegMap.regField_toNat h] at hsame
  rw [hr', RegMap.index_injective h hsame.1 hsame.2]

/-! ### One entry -/

@[simp] theorem State.runEntry_cfg (s : State) (m : MicroOp) : (s.runEntry m).cfg = s.cfg := by
  have h : ∀ (t : State) (u : Uop), (t.doUop u).cfg = t.cfg := by
    intro t u
    cases u <;> simp only [State.doUop, State.doChopen, State.doMap] <;> (try split) <;> rfl
  rw [State.runEntry, h]; cases m <;> rfl

/-- An admitted entry is completed, and the handles are those after it, or it is denied: the sequencer turns to the
cleanup and the handles stand (rules R31, R120, R150). -/
theorem State.runEntry_outcome {s : State} {m : MicroOp} {h' : Handles}
    (h : handlesAfter s.cfg.regmap s.handles (m.uop (m.prepare s)) = some h') :
    ((s.runEntry m).run = s.run ∧ (s.runEntry m).handles = h') ∨
    (m.undeniable = false ∧ (s.runEntry m).run = s.afterDenial.run ∧ (s.runEntry m).handles = s.handles) := by
  cases m with
  | bus u =>
    cases u with
    | chopen =>
      obtain ⟨-, ⟨⟩⟩ := Option.ite_none_right_eq_some.1 h
      rw [show s.runEntry (.bus .chopen) = s.doChopen from rfl]
      cases hg : s.grantAnswer with
      | true => rw [State.doChopen_granted s hg]; exact .inl ⟨rfl, rfl⟩
      | false => rw [State.doChopen_denied s hg]; exact .inr ⟨rfl, rfl, rfl⟩
    | map w =>
      obtain ⟨-, ⟨⟩⟩ := Option.ite_none_right_eq_some.1 h
      rw [show s.runEntry (.bus (.map w)) = s.doMap w from rfl]
      cases hg : s.grantAnswer with
      | true => rw [State.doMap_granted s w hg]; exact .inl ⟨rfl, rfl⟩
      | false => rw [State.doMap_denied s w hg]; exact .inr ⟨rfl, rfl, rfl⟩
    | wait t => cases h; exact .inl ⟨rfl, rfl⟩
    | ld w ix | st w ix v | unmap w | chclose =>
      obtain ⟨-, ⟨⟩⟩ := Option.ite_none_right_eq_some.1 h
      exact .inl ⟨rfl, rfl⟩
  | initThenLoad | storeFsel | storeWord w =>
    obtain ⟨-, ⟨⟩⟩ := Option.ite_none_right_eq_some.1 h
    exact .inl ⟨rfl, rfl⟩

/-! ### Admission of a micro-program -/

/-- With the handles `h`, and after the entries `done`, a list of entries is admitted one after the other, whatever
their operands read from the state, and where an entry can be denied, so is the cleanup that then takes the place of
the list (rule R150). -/
inductive Admitted (p : Params) : Handles → List MicroOp → List MicroOp → Prop
  | nil (h : Handles) (done : List MicroOp) : Admitted p h done []
  | cons {h h' : Handles} {done : List MicroOp} {m : MicroOp} {rest : List MicroOp}
      (entry : ∀ s : State, s.cfg = p → handlesAfter p.regmap h (m.uop s) = some h')
      (undo : m.undeniable = false → Admitted p h (done ++ [m]) (cleanup done))
      (next : Admitted p h' (done ++ [m]) rest) : Admitted p h done (m :: rest)

/-- What the sequencer has still to run is admitted. -/
def State.Admits (s : State) : Prop :=
  Admitted s.cfg s.handles (s.run.prog.take s.seq.idx) (s.run.prog.drop s.seq.idx)

/-- The step runs an admitted entry, and the rest is admitted still, the cleanup after a denial included. -/
theorem step_entry {s : State} {m : MicroOp} (hp : s.seq.phase ≠ .idle)
    (hm : s.run.prog[s.seq.idx]? = some m) (ha : s.Admits) :
    step s = .next (s.runEntry m) ∧ (s.runEntry m).Admits := by
  obtain ⟨hlt, -⟩ := List.getElem?_eq_some_iff.1 hm
  have htake : s.run.prog.take (s.seq.idx + 1) = s.run.prog.take s.seq.idx ++ [m] := by
    rw [List.take_add_one, hm]; rfl
  have hdrop : s.run.prog.drop s.seq.idx = m :: s.run.prog.drop (s.seq.idx + 1) := by
    rw [List.drop_eq_getElem?_toList_append, hm]; rfl
  rw [State.Admits, hdrop] at ha
  cases ha with
  | @cons _ h' _ _ _ entry undo next =>
    have hadm : handlesAfter s.cfg.regmap s.handles (m.uop (m.prepare s)) = some h' :=
      entry _ (by cases m <;> rfl)
    have hprep : handlesAfter (m.prepare s).cfg.regmap (m.prepare s).handles (m.uop (m.prepare s)) = some h' := by
      cases m <;> exact hadm
    constructor
    · simp only [step, State.fetch, if_neg hp, State.fetchMicro, hm]
      exact exec_of_handlesAfter hprep
    · rw [State.Admits, State.runEntry_cfg, State.runEntry_idx]
      obtain ⟨hrun, hh⟩ | ⟨hd, hrun, hh⟩ := State.runEntry_outcome hadm
      · rw [hrun, hh, htake]; exact next
      · have hlen : (s.run.prog.take (s.seq.idx + 1)).length = s.seq.idx + 1 := by simp; omega
        rw [hrun, hh, State.afterDenial, List.take_left' hlen, List.drop_left' hlen, htake]
        exact undo hd

/-- The step after the last entry ends the command. -/
theorem step_end {s : State} (hp : s.seq.phase ≠ .idle) (hm : s.run.prog[s.seq.idx]? = none) :
    step s = .next s.finish := by
  simp only [step, State.fetch, if_neg hp, State.fetchMicro, hm]

/-! ### Runs -/

/-- A run of any machine whose first step goes on. -/
theorem core_run_succ {M : Host.Core} {s t : M.State} (h : M.step s = .next t) (k : Nat) :
    M.run (k + 1) s = M.run k t := by
  rw [Host.Core.run, h]

theorem run_succ {s t : State} (h : step s = .next t) (k : Nat) :
    Sys2Proof.core.run (k + 1) s = Sys2Proof.core.run k t :=
  core_run_succ (M := Sys2Proof.core) h k

/-- The steps of an admitted list lead where the atomic command leads, in as many steps at most (rule R11). -/
theorem exists_run_eq_runToIdle (fuel : Nat) (s : State) (ha : s.Admits) :
    ∃ k ≤ fuel, Sys2Proof.core.run k s = .next (runToIdle fuel s) := by
  induction fuel generalizing s with
  | zero => exact ⟨0, le_rfl, rfl⟩
  | succ fuel ih =>
    by_cases hp : s.seq.phase = .idle
    · exact ⟨0, Nat.zero_le _, by rw [runToIdle_idle _ _ hp]; rfl⟩
    · rw [runToIdle_step _ _ hp]
      cases hm : s.run.prog[s.seq.idx]? with
      | none =>
        refine ⟨1, by omega, ?_⟩
        rw [run_succ (step_end hp hm), State.microStep_end _ hm,
          runToIdle_idle _ _ (State.finish_phase s hp)]
        rfl
      | some m =>
        obtain ⟨hstep, hnext⟩ := step_entry hp hm ha
        obtain ⟨k, hk, hrun⟩ := ih _ hnext
        exact ⟨k + 1, by omega, by rw [run_succ hstep, hrun, State.microStep_entry _ _ hm]⟩

/-- Where nothing can be denied, every entry and the end of the command take a step each. -/
theorem run_undeniable (rest : List MicroOp) (s : State) (hp : s.seq.phase ≠ .idle)
    (hr : s.run.prog.drop s.seq.idx = rest) (hu : ∀ m ∈ rest, m.undeniable = true) (ha : s.Admits) :
    Sys2Proof.core.run (rest.length + 1) s = .next (rest.foldl State.runEntry s).finish := by
  induction rest generalizing s with
  | nil =>
    have hm : s.run.prog[s.seq.idx]? = none := by simpa using hr
    exact run_succ (step_end hp hm) 0
  | cons m rest ih =>
    have hm : s.run.prog[s.seq.idx]? = some m := by
      have := congrArg (fun l => l[0]?) hr
      simpa using this
    have hrest : s.run.prog.drop (s.seq.idx + 1) = rest := by rw [← List.drop_drop, hr]; rfl
    obtain ⟨hstep, hnext⟩ := step_entry hp hm ha
    rw [List.length_cons, run_succ hstep]
    refine ih _ (by simpa using hp) ?_ (fun x hx => hu x (by simp [hx])) hnext
    rw [State.runEntry_run _ _ (hu m (by simp)), State.runEntry_idx]; exact hrest

/-- An accepted command that asks for no grant: one step an entry and one for its end. -/
theorem run_eq_runCommand {s : State} (hp : s.seq.phase ≠ .idle) (h0 : s.seq.idx = 0)
    (hu : ∀ m ∈ s.run.prog, m.undeniable = true) (ha : s.Admits) :
    Sys2Proof.core.run (s.run.prog.length + 1) s = .next s.runCommand := by
  have hr : s.run.prog.drop s.seq.idx = s.run.prog := by rw [h0]; rfl
  rw [run_undeniable _ s hp hr hu ha, State.runCommand, runToIdle_undeniable _ _ s hp hr hu (by omega)]

/-! ### The three micro-programs are admitted -/

/-- With the channel open and every window mapped the entry is admitted, and so they stay. -/
def MicroOp.KeepsHandles (p : Params) (m : MicroOp) : Prop :=
  ∀ s : State, s.cfg = p → handlesAfter p.regmap (.opened, Mapped.all) (m.uop s) = some (.opened, Mapped.all)

theorem Mapped.all_get (w : Window) : Mapped.all.get w = true := by cases w <;> rfl

/-- Entries that keep the handles are admitted one after the other, whatever ran before. -/
theorem admitted_of_keepsHandles {p : Params} (ms : List MicroOp) (done : List MicroOp)
    (hu : ∀ m ∈ ms, m.undeniable = true) (hk : ∀ m ∈ ms, m.KeepsHandles p) :
    Admitted p (.opened, Mapped.all) done ms := by
  induction ms generalizing done with
  | nil => exact .nil _ _
  | cons m ms ih =>
    obtain ⟨hum, hums⟩ := List.forall_mem_cons.1 hu
    obtain ⟨hkm, hkms⟩ := List.forall_mem_cons.1 hk
    exact .cons hkm (fun hd => absurd hum (by simp [hd])) (ih _ hums hkms)

theorem wait_keepsHandles (p : Params) (t : Interval) : (MicroOp.bus (.wait t)).KeepsHandles p :=
  fun _ _ => rfl

/-- DESTROY (rule R160). -/
theorem destroyProgram_admitted (p : Params) : Admitted p (.opened, Mapped.all) [] destroyProgram :=
  .cons (fun _ _ => rfl) nofun <| .cons (fun _ _ => rfl) nofun <| .cons (fun _ _ => rfl) nofun <|
    .cons (fun _ _ => rfl) nofun (.nil _ _)

section
variable {p : Params} (hwf : p.regmap.wf = true)
include hwf

theorem stOp_keepsHandles (r : Reg) (v : Word) : (stOp p r v).KeepsHandles p :=
  fun _ _ => if_pos ⟨Mapped.all_get _, by rw [RegMap.reg?_regField hwf]; rfl⟩

theorem initThenLoad_keepsHandles : MicroOp.initThenLoad.KeepsHandles p := by
  rintro s rfl
  exact if_pos ⟨rfl, by rw [show Window.gpio = Reg.fsel.win from rfl, RegMap.reg?_regField hwf]; rfl⟩

theorem storeFsel_keepsHandles : MicroOp.storeFsel.KeepsHandles p := by
  rintro s rfl
  exact if_pos ⟨rfl, by rw [show Window.gpio = Reg.fsel.win from rfl, RegMap.reg?_regField hwf]; rfl⟩

theorem storeWord_keepsHandles (w : Nat) : (MicroOp.storeWord w).KeepsHandles p := by
  rintro s rfl
  exact if_pos ⟨rfl, by rw [show Window.pwm = Reg.fifo.win from rfl, RegMap.reg?_regField hwf]; rfl⟩

theorem configurePhase_keepsHandles : ∀ m ∈ configurePhase p, m.KeepsHandles p := by
  simp [configurePhase, settleOp, stOp_keepsHandles hwf, wait_keepsHandles, initThenLoad_keepsHandles hwf,
    storeFsel_keepsHandles hwf]

theorem queuePhase_keepsHandles (n : Nat) : ∀ m ∈ queuePhase n, m.KeepsHandles p := by
  intro m hm
  obtain ⟨w, -, hw⟩ := List.mem_flatMap.1 hm
  obtain rfl | rfl : m = .storeWord w ∨ m = .bus (.wait .fifoGap) := by simpa using hw
  · exact storeWord_keepsHandles hwf w
  · exact wait_keepsHandles p .fifoGap

theorem showProgram_keepsHandles (n : Nat) : ∀ m ∈ showProgram p n, m.KeepsHandles p := by
  simp only [showProgram, List.forall_mem_append]
  refine ⟨⟨?_, queuePhase_keepsHandles hwf n⟩, ?_⟩ <;>
    simp [settleOp, stOp_keepsHandles hwf, wait_keepsHandles]

/-- CREATE, with the cleanup of each of its four requests (rules R146, R150). -/
theorem createProgram_admitted :
    Admitted p (.closed, Mapped.none) [] (createProgram p .closed) := by
  have release {done : List MicroOp} :
      Admitted p (.opened, Mapped.none) done [.bus .chclose] :=
    .cons (fun _ _ => rfl) nofun (.nil _ _)
  have releaseGpio {done : List MicroOp} :
      Admitted p (.opened, ⟨true, false, false⟩) done [.bus (.unmap .gpio), .bus .chclose] :=
    .cons (fun _ _ => rfl) nofun release
  have releasePwm {done : List MicroOp} :
      Admitted p (.opened, ⟨true, true, false⟩) done
        [.bus (.unmap .pwm), .bus (.unmap .gpio), .bus .chclose] :=
    .cons (fun _ _ => rfl) nofun releaseGpio
  have configure {done : List MicroOp} : Admitted p (.opened, Mapped.all) done (configurePhase p) :=
    admitted_of_keepsHandles _ _ (configurePhase_undeniable p) (configurePhase_keepsHandles hwf)
  exact .cons (fun _ _ => rfl) (fun _ => .nil _ _) <|
    .cons (fun _ _ => rfl) (fun _ => release) <|
    .cons (fun _ _ => rfl) (fun _ => releaseGpio) <|
    .cons (fun _ _ => rfl) (fun _ => releasePwm) configure

theorem showProgram_admitted (n : Nat) : Admitted p (.opened, Mapped.all) [] (showProgram p n) :=
  admitted_of_keepsHandles _ _ (fun m hm => m.undeniable_of_quiet (showProgram_quiet p n m hm))
    (showProgram_keepsHandles hwf n)

end

theorem Inv.regmap_wf {s : State} (h : Inv s) : s.cfg.regmap.wf = true := by
  have := h.cfg
  simp only [Params.wf, Bool.and_eq_true] at this
  exact this.2

/-! ### The two views of each command -/

theorem create_refines {s : State} (n : BitVec 32) (hi : Inv s) (hs : s.inst = .unconfigured)
    (hn : n.toNat ≤ s.cfg.capacity) :
    ∃ k ≤ 22, Sys2Proof.core.run k (s.acceptCreate n) = exec (.create n) s := by
  obtain ⟨-, hm, hc⟩ := hi.unconfigured hs
  have ha : (s.acceptCreate n).Admits := by
    have := createProgram_admitted hi.regmap_wf
    simpa [State.Admits, State.acceptCreate, State.handles, hc, hm] using this
  have hexec : exec (.create n) s = .next (runToIdle 22 (s.acceptCreate n)) := by
    simp [exec, execCreate, hs, Nat.not_lt.2 hn, State.runCommand, s.acceptCreate_closed n hc, requests,
      configurePhase]
  rw [hexec]
  exact exists_run_eq_runToIdle 22 _ ha

theorem show_refines {s : State} (hi : Inv s) (hs : s.inst = .ready) :
    Sys2Proof.core.run (8 + 2 * wordCount s.n.toNat) s.acceptShow = exec .showFrame s := by
  obtain ⟨hm, hc⟩ := hi.ready hs
  have ha : s.acceptShow.Admits := by
    have := showProgram_admitted hi.regmap_wf (wordCount s.n.toNat)
    simpa [State.Admits, State.acceptShow, State.handles, hc, hm] using this
  have hrun := run_eq_runCommand (s := s.acceptShow) (by simp [State.acceptShow]) rfl
    (fun m h => m.undeniable_of_quiet (showProgram_quiet _ _ m h)) ha
  have hlen : s.acceptShow.run.prog.length + 1 = 8 + 2 * wordCount s.n.toNat := by
    simp only [State.acceptShow, State.accept_run, showProgram_length]; omega
  rw [← hlen, hrun]
  exact (congrArg _ (if_neg (not_not.2 hs))).symm

theorem destroy_refines {s : State} (hi : Inv s) (hs : s.inst = .ready) :
    Sys2Proof.core.run 5 s.acceptDestroy = exec .destroy s := by
  obtain ⟨hm, hc⟩ := hi.ready hs
  have ha : s.acceptDestroy.Admits := by
    have := destroyProgram_admitted s.cfg
    simpa [State.Admits, State.acceptDestroy, State.handles, hc, hm] using this
  have hrun := run_eq_runCommand (s := s.acceptDestroy) (by simp [State.acceptDestroy]) rfl
    (by simp [State.acceptDestroy, destroyProgram, MicroOp.undeniable]) ha
  rw [show 5 = s.acceptDestroy.run.prog.length + 1 from rfl, hrun]
  exact (congrArg _ (if_neg (not_not.2 hs))).symm

/-- Settles O52: each of the three micro-programs is admitted with its cleanups, and an admitted list runs entry by
entry as the atomic command does. -/
theorem microStepsRefineCommands : Obligations.MicroStepsRefineCommands :=
  ⟨fun _ n hi hs hn => create_refines n hi hs hn, fun _ hi hs => show_refines hi hs,
    fun _ hi hs => destroy_refines hi hs⟩

end Sys2Proof.Machine
end

section
/-! SUPPORT. What a step between commands and a command can do, said once: the cases of the dispatch (rules R76, R95,
R302) and the outcomes of a command (rules R141, R150, R159, R171, R172, R181, R216). -/

namespace Sys2Proof.Machine

/-! ### The step between commands -/

/-- No command waits: the serializer's periods pass (rule R302). -/
theorem step_waits {s : State} (hp : s.seq.phase = .idle) (hc : s.cmdPort = []) : step s = .next s.elapse := by
  simp only [step, State.fetch, if_pos hp, State.fetchCommand, hc]

/-- The oldest word of the port is a command: it runs once the serializer's periods have passed. -/
theorem step_runs {s : State} {w : Record} {rest : List Record} {i : Instr} (hp : s.seq.phase = .idle)
    (hc : s.cmdPort = w :: rest) (hw : decodeCmd w = .ok i) :
    step s = exec i { s.elapse with cmdPort := rest } := by
  simp only [step, State.fetch, if_pos hp, State.fetchCommand, hc, State.takeCommand, hw]

/-- The oldest word of the port is illegal (rule R95). -/
theorem step_illegal {s : State} {w : Record} {rest : List Record} {e : DecodeError} (hp : s.seq.phase = .idle)
    (hc : s.cmdPort = w :: rest) (hw : decodeCmd w = .error e) :
    step s = .next ({ s.elapse with cmdPort := rest }.raise .illegalCommand) := by
  simp only [step, State.fetch, if_pos hp, State.fetchCommand, hc, State.takeCommand, hw]

/-- The command port gives commands only (rules R90, R92). -/
theorem decodeCmd_port {w : Record} {i : Instr} (h : decodeCmd w = .ok i) : i.port = .cmd := by
  unfold decodeCmd at h
  repeat' split at h
  all_goals cases h
  all_goals rfl

/-! ### The outcomes of a command -/

/-- What a command can leave: an error, the run of its micro-program, a pixel written, a pixel answered. -/
inductive CommandOutcome (s : State) : Instr → State → Prop
  | raised (i : Instr) (c : ErrCode) : CommandOutcome s i (s.raise c)
  | created (n : BitVec 32) (hs : s.inst = .unconfigured) (hn : n.toNat ≤ s.cfg.capacity) :
      CommandOutcome s (.create n) (s.acceptCreate n).runCommand
  | shown (hs : s.inst = .ready) : CommandOutcome s .showFrame s.acceptShow.runCommand
  | destroyed (hs : s.inst = .ready) : CommandOutcome s .destroy s.acceptDestroy.runCommand
  | painted (i : Instr) (ix : BitVec 32) (c : Color) (hi : i ≠ .destroy ∧ ∀ n, i ≠ .create n)
      (hs : s.inst = .ready) (hix : ix.toNat < s.n.toNat) :
      CommandOutcome s i ((s.setPixel ix.toNat c).respond 0#24)
  | answered (ix : BitVec 32) (hs : s.inst = .ready) (hix : ix.toNat < s.n.toNat) :
      CommandOutcome s (.getpix ix) (s.respond (colorData (s.pixel ix.toNat)))

/-- The checks of the pixel commands leave an error or the outcome of the body (rules R172, R174). -/
theorem CommandOutcome.whenAddressable {s : State} {i : Instr} {ix : BitVec 32} {body : State}
    (h : s.inst = .ready → ix.toNat < s.n.toNat → CommandOutcome s i body) :
    CommandOutcome s i (s.whenAddressable ix body) := by
  unfold State.whenAddressable
  split_ifs with hs hix
  · exact .raised _ _
  · exact h (not_not.1 hs) (by simpa [State.indexValid] using hix)
  · exact .raised _ _

/-- Every command answers a next state, one of its outcomes. -/
theorem exec_command (i : Instr) (s : State) (hp : i.port = .cmd) :
    ∃ t, exec i s = .next t ∧ CommandOutcome s i t := by
  cases i with
  | create n =>
    refine ⟨_, rfl, ?_⟩
    split_ifs with hs hn
    · exact .raised _ _
    · exact .raised _ _
    · exact .created n (not_not.1 hs) (Nat.not_lt.1 hn)
  | setrgb ix r g b => exact ⟨_, rfl, .whenAddressable fun hs hix => .painted _ _ _ (by simp) hs hix⟩
  | setnamed ix name lum =>
    refine ⟨_, rfl, .whenAddressable fun hs hix => ?_⟩
    cases namedColor s.cfg name with
    | none => exact .raised _ _
    | some c => exact .painted _ _ _ (by simp) hs hix
  | showFrame =>
    refine ⟨_, rfl, ?_⟩
    split_ifs with hs
    · exact .raised _ _
    · exact .shown (not_not.1 hs)
  | getpix ix => exact ⟨_, rfl, .whenAddressable fun hs hix => .answered ix hs hix⟩
  | destroy =>
    refine ⟨_, rfl, ?_⟩
    split_ifs with hs
    · exact .raised _ _
    · exact .destroyed (not_not.1 hs)
  | chopen | map _ | ld _ _ | st _ _ _ | wait _ | unmap _ | chclose => cases hp

theorem CommandOutcome.of_exec {i : Instr} {s t : State} (hp : i.port = .cmd) (h : exec i s = .next t) :
    CommandOutcome s i t := by
  obtain ⟨t', ht, ho⟩ := exec_command i s hp
  cases ht.symm.trans h
  exact ho

/-- Two runs that take the same branch of a check are related when the branches are. -/
theorem rel_ite {r : State → State → Prop} {c : Prop} [Decidable c] {a b a' b' : State} (ha : c → r a a')
    (hb : ¬c → r b b') : r (if c then a else b) (if c then a' else b') := by
  split_ifs with h
  · exact ha h
  · exact hb h

/-- Of the four requests of CREATE all are granted, or there is a first one denied (rule R150). -/
theorem State.grants_cases (s : State) :
    (∀ k < 4, s.grantAt k = true) ∨ ∃ k < 4, (∀ j < k, s.grantAt j = true) ∧ s.grantAt k = false := by
  by_cases h : ∃ k, k < 4 ∧ s.grantAt k = false
  · obtain ⟨hk, hd⟩ := Nat.find_spec h
    refine .inr ⟨Nat.find h, hk, fun j hj => ?_, hd⟩
    have := Nat.find_min h hj
    simpa [Nat.lt_trans hj hk] using this
  · exact .inl (by simpa using h)

end Sys2Proof.Machine
end

section
/-! SUPPORT. The devices under the stores of the micro-programs, and the invariant of command boundaries (rules R33,
R49, R51, log entry 9): what each register of the devices holds after a list of bus events, what CREATE and SHOW leave
there, and that every step keeps the invariant. -/

namespace Sys2Proof.Machine

/-! ### What the registers of the devices hold -/

/-- The fields of the devices that stores to a register set (rules R244 to R246, R251, R252). -/
def Devices.held (d : Devices) : Reg → List Bool × List Nat
  | .pwmctl => ([d.clkRun], [d.clkSel])
  | .pwmdiv => ([], [d.clkDiv1024])
  | .ctl => ([d.pEn, d.pMode, d.pUsef, d.pRptl, d.pPola, d.pSbit], [])
  | .sta => ([], [d.pErr.toNat])
  | .dmac => ([d.pDma], [])
  | .rng => ([], [d.pRng])
  | .fifo => ([], [])
  | .fsel => ([], [d.pinFunc])

theorem Devices.held_serialize (r : Reg) (p : Params) (k : Nat) (d : Devices) :
    (d.serialize p k).held r = d.held r := by
  have h := Devices.serialize_settings p k d
  cases r <;> simp [Devices.held, h.pEn, h.pMode, h.pUsef, h.pRptl, h.pPola, h.pSbit, h.pRng, h.pErr, h.pDma,
    h.clkRun, h.clkDiv1024, h.clkSel, h.pinFunc]

/-- A store leaves what the other registers hold; only an overflow of the queue reaches another register, the error
flags (rule R243). -/
theorem Devices.held_store_other {r r' : Reg} (h : r' ≠ r) (hf : r = .sta → r' ≠ .fifo) (p : Params) (v : Word)
    (k : Nat) (d : Devices) : (d.store p r' v k).held r = d.held r := by
  by_cases hfifo : r' = .fifo
  · subst hfifo
    have hsta : r ≠ .sta := fun hr => hf hr rfl
    rw [show d.store p .fifo v k = d.storeFifo p v k from rfl]
    unfold Devices.storeFifo
    split <;> cases r <;> simp_all [Devices.held]
  · cases r' <;> cases r <;> simp_all [Devices.held, Devices.store, Devices.storePwmctl, Devices.storePwmdiv,
      Devices.storeCtl, Devices.storeSta]

/-- A bus event that leaves what register `r` holds. -/
def Spares (p : Params) (r : Reg) (u : Uop) : Prop := ∀ k d, (storeUop p k d u).held r = d.held r

theorem devRun_held {p : Params} {r : Reg} {us : List Uop} (h : ∀ u ∈ us, Spares p r u) (ticks : List Nat)
    (k : Nat) (d : Devices) : (devRun p us ticks k d).held r = d.held r := by
  induction us generalizing ticks k d with
  | nil => rfl
  | cons u us ih =>
    obtain ⟨hu, hus⟩ := List.forall_mem_cons.1 h
    rw [devRun, ih hus, Devices.held_serialize, hu]

/-! ### The stores of the micro-programs -/

theorem Params.wf_layout {p : Params} (h : p.wf = true) :
    p.regmap.wf = true ∧ p.divInt < 2 ^ p.regmap.diviW ∧ p.divFrac16 < 65536 ∧ p.clkSrc < 2 ^ p.regmap.srcW := by
  simp only [Params.wf, Bool.and_eq_true, decide_eq_true_eq] at h
  obtain ⟨⟨⟨⟨⟨-, hdiv⟩, hfrac⟩, hsrc⟩, -⟩, hmap⟩ := h
  exact ⟨hmap, hdiv, hfrac, hsrc⟩

theorem RegMap.wf_parts {m : RegMap} (h : m.wf = true) : ClkLayout m ∧ m.wfPwmGpio = true := by
  simp only [RegMap.wf, Bool.and_eq_true] at h
  obtain ⟨⟨-, hclk⟩, hpwm⟩ := h
  exact ⟨RegMap.wfClk_layout hclk, hpwm⟩

/-- `DIVF` fits a field of 11 bits (rules R102, R152). -/
theorem divf_lt {f w : Nat} (hf : f < 65536) (hw : 11 ≤ w) : divf f < 2 ^ w := by
  have h11 : (2 : Nat) ^ 11 ≤ 2 ^ w := Nat.pow_le_pow_right (by omega) hw
  have hle : divf f ≤ 1024 := by unfold divf; omega
  omega

theorem spares_wait (p : Params) (r : Reg) (t : Interval) : Spares p r (.wait t) := fun _ _ => rfl

section
variable {p : Params}

/-- In a legal layout a store to a register's own window and index reaches that register. -/
theorem storeUop_reg (h : p.regmap.wf = true) (r : Reg) (v : Word) (k : Nat) (d : Devices) :
    storeUop p k d (.st r.win (p.regmap.regField r) v) = d.store p r v k := by
  simp only [storeUop, RegMap.reg?_regField h]

theorem spares_st (h : p.regmap.wf = true) {r r' : Reg} (hr : r' ≠ r) (hf : r = .sta → r' ≠ .fifo) (v : Word) :
    Spares p r (.st r'.win (p.regmap.regField r') v) := fun k d => by
  rw [storeUop_reg h, Devices.held_store_other hr hf]

/-- After a list of bus events a register holds what its last store put there. -/
theorem devRun_held_store (h : p.regmap.wf = true) {r : Reg} {v : Word} {us : List Uop} {i : Nat}
    {x : List Bool × List Nat} (hi : us[i]? = some (.st r.win (p.regmap.regField r) v))
    (hx : ∀ k (d : Devices), (d.store p r v k).held r = x) (hus : ∀ u ∈ us.drop (i + 1), Spares p r u)
    (ticks : List Nat) (k : Nat) (d : Devices) : (devRun p us ticks k d).held r = x := by
  have hsplit : us = us.take i ++ .st r.win (p.regmap.regField r) v :: us.drop (i + 1) := by
    conv_lhs => rw [← List.take_append_drop i us, List.drop_eq_getElem?_toList_append, hi]
    rfl
  rw [hsplit, devRun_append, devRun, devRun_held (by simpa using hus), Devices.held_serialize,
    storeUop_reg h, hx]

variable (h : p.wf = true) (k : Nat) (d : Devices)
include h

/-- The clock is started from the configured source (rules R107, R251). -/
theorem held_store_pwmctl :
    (d.store p .pwmctl (clkctl p.regmap false true p.clkSrc) k).held .pwmctl = ([true], [p.clkSrc]) := by
  obtain ⟨hmap, -, -, hsrc⟩ := Params.wf_layout h
  obtain ⟨hkill, henable, hread⟩ := clkctl_fields (RegMap.wf_parts hmap).1 false true hsrc
  simp [Devices.store, Devices.storePwmctl_of_bits hkill henable, Devices.held, hread]

theorem held_store_pwmdiv :
    (d.store p .pwmdiv (clkdiv p.regmap p.divInt (divf p.divFrac16)) k).held .pwmdiv =
      ([], [1024 * p.divInt + divf p.divFrac16]) := by
  obtain ⟨hmap, hdiv, hfrac, -⟩ := Params.wf_layout h
  have hclk := (RegMap.wf_parts hmap).1
  obtain ⟨hi, hf⟩ := clkdiv_fields hclk hdiv (divf_lt hfrac hclk.divf_wide)
  simp [Devices.store, Devices.storePwmdiv, Devices.held, hi, hf]

theorem held_store_ctl (en mode usef rptl pola sbit clrf : Bool) :
    (d.store p .ctl (ctlw p.regmap en mode usef rptl pola sbit clrf) k).held .ctl =
      ([en, mode, usef, rptl, pola, sbit], []) := by
  obtain ⟨hmap, -⟩ := Params.wf_layout h
  obtain ⟨h1, h2, h3, h4, h5, h6, -⟩ := ctlw_fields (RegMap.wf_parts hmap).2 en mode usef rptl pola sbit clrf
  simp only [Devices.store, Devices.storeCtl, Devices.held, h1, h2, h3, h4, h5, h6]

theorem held_store_fsel (v : Word) :
    (d.store p .fsel (fselw p.regmap v) k).held .fsel = ([], [p.regmap.altPwm]) := by
  obtain ⟨hmap, -⟩ := Params.wf_layout h
  simp only [Devices.store, Devices.held, fselw_field (RegMap.wf_parts hmap).2]

end

theorem held_store_dmac (p : Params) (k : Nat) (d : Devices) :
    (d.store p .dmac (dmacw p.regmap false) k).held .dmac = ([false], []) := by
  simp [Devices.store, Devices.held, dmacw, bitAt]

theorem held_store_sta (p : Params) (k : Nat) (d : Devices) :
    (d.store p .sta p.regmap.errClearAll k).held .sta = ([], [0]) := by
  simp [Devices.store, Devices.storeSta, Devices.held]

/-- `DevicesConfigured` register by register (rule R51). -/
theorem devicesConfigured_iff (p : Params) (d : Devices) :
    DevicesConfigured p d ↔
      (∃ en, d.held .ctl = ([en, true, true, false, false, false], [])) ∧ d.held .rng = ([], [32]) ∧
      d.held .dmac = ([false], []) ∧ d.held .pwmctl = ([true], [p.clkSrc]) ∧
      d.held .pwmdiv = ([], [1024 * p.divInt + divf p.divFrac16]) ∧ d.held .fsel = ([], [p.regmap.altPwm]) := by
  constructor
  · rintro ⟨hmode, husef, hrptl, hpola, hsbit, hrng, hdma, hrun, hsel, hdiv, hpin⟩
    simp [Devices.held, *]
  · simp only [Devices.held, Prod.mk.injEq, List.cons.injEq, and_true, true_and]
    rintro ⟨⟨-, -, hmode, husef, hrptl, hpola, hsbit⟩, hrng, hdma, ⟨hrun, hsel⟩, hdiv, hpin⟩
    exact ⟨hmode, husef, hrptl, hpola, hsbit, hrng, hdma, hrun, hsel, hdiv, hpin⟩

/-! ### The devices after CREATE and after SHOW -/

/-- The stores of CREATE configure the devices; the error flags are clear and the peripheral is not enabled (rule
R51): each register holds what its last store put there. -/
theorem configure_devices (s : State) (h : s.cfg.wf = true) (ticks : List Nat) (k : Nat) (d : Devices) :
    let e := devRun s.cfg ((configurePhase s.cfg).tail.map fun m => m.uop s) ticks k d
    DevicesConfigured s.cfg e ∧ e.held .ctl = ([false, true, true, false, false, false], []) ∧
      e.held .sta = ([], [0]) := by
  intro e
  have hmap := (Params.wf_layout h).1
  have hctl : e.held .ctl = ([false, true, true, false, false, false], []) :=
    devRun_held_store hmap (i := 15) rfl (held_store_ctl h · · ..) (by simp [configurePhase]) ..
  refine ⟨(devicesConfigured_iff _ _).2 ⟨⟨_, hctl⟩,
    devRun_held_store hmap (r := .rng) (i := 11) rfl (fun _ _ => rfl) ?_ ..,
    devRun_held_store hmap (r := .dmac) (i := 3) rfl (held_store_dmac s.cfg) ?_ ..,
    devRun_held_store hmap (r := .pwmctl) (i := 7) rfl (held_store_pwmctl h) ?_ ..,
    devRun_held_store hmap (r := .pwmdiv) (i := 5) rfl (held_store_pwmdiv h) ?_ ..,
    devRun_held_store hmap (r := .fsel) (i := 0) rfl (held_store_fsel h · · _) ?_ ..⟩, hctl,
    devRun_held_store hmap (r := .sta) (i := 13) rfl (held_store_sta s.cfg) ?_ ..⟩
  -- what follows a register's last store are waits and stores to other registers
  all_goals simp [configurePhase, stOp, settleOp, MicroOp.uop, spares_wait, spares_st hmap]

/-- SHOW stores to `CTL`, `STA` and the queue only (rule R217). -/
theorem show_spares (s : State) (h : s.cfg.regmap.wf = true) (m : Nat) {r : Reg}
    (hr : r ≠ .ctl ∧ r ≠ .sta ∧ r ≠ .fifo) :
    ∀ u ∈ (showProgram s.cfg m).map fun x => x.uop s, Spares s.cfg r u := by
  obtain ⟨hctl, hsta, hfifo⟩ := hr
  have hq : ∀ w, Spares s.cfg r (.st .pwm (s.cfg.regmap.regField .fifo) (s.q.getD w 0#32)) := fun w =>
    spares_st h (r' := .fifo) hfifo.symm (fun hr => absurd hr hsta) _
  simp only [List.forall_mem_map, showProgram, queuePhase, List.forall_mem_append, List.mem_flatMap]
  refine ⟨⟨?_, ?_⟩, ?_⟩
  · simp [stOp, settleOp, MicroOp.uop, spares_wait, spares_st h, hctl.symm, hsta.symm]
  · rintro x ⟨w, -, hx⟩
    obtain rfl | rfl : x = .storeWord w ∨ x = .bus (.wait .fifoGap) := by simpa using hx
    · exact hq w
    · exact spares_wait s.cfg r .fifoGap
  · simp [stOp, MicroOp.uop, spares_st h, hctl.symm]

/-- SHOW leaves configured devices configured (rules R51, R217). -/
theorem show_devices (s : State) (h : s.cfg.wf = true) (m : Nat) (ticks : List Nat) (k : Nat) {d : Devices}
    (hd : DevicesConfigured s.cfg d) :
    DevicesConfigured s.cfg (devRun s.cfg ((showProgram s.cfg m).map fun x => x.uop s) ticks k d) := by
  have hmap := (Params.wf_layout h).1
  obtain ⟨-, hrng, hdmac, hpwmctl, hpwmdiv, hfsel⟩ := (devicesConfigured_iff _ _).1 hd
  have hkeep : ∀ r : Reg, r ≠ .ctl ∧ r ≠ .sta ∧ r ≠ .fifo →
      (devRun s.cfg ((showProgram s.cfg m).map fun x => x.uop s) ticks k d).held r = d.held r :=
    fun r hr => devRun_held (show_spares s hmap m hr) ..
  refine (devicesConfigured_iff _ _).2 ⟨⟨true, ?_⟩, ?_, ?_, ?_, ?_, ?_⟩
  · have hlast : (showProgram s.cfg m)[6 + 2 * m]? = some (stOp s.cfg .ctl (cfgEn s.cfg.regmap)) := by
      rw [showProgram, List.getElem?_append_right (by simp [queuePhase_length]; omega),
        Nat.sub_eq_zero_of_le (by simp [queuePhase_length]; omega)]
      rfl
    refine devRun_held_store hmap (v := cfgEn s.cfg.regmap) (i := 6 + 2 * m) ?_ (held_store_ctl h · · ..) ?_ ..
    · rw [List.getElem?_map, hlast]; rfl
    · rw [List.drop_eq_nil_of_le (by rw [List.length_map, showProgram_length]; omega)]
      exact nofun
  · rw [hkeep .rng (by decide), hrng]
  · rw [hkeep .dmac (by decide), hdmac]
  · rw [hkeep .pwmctl (by decide), hpwmctl]
  · rw [hkeep .pwmdiv (by decide), hpwmdiv]
  · rw [hkeep .fsel (by decide), hfsel]

/-- The serializer's periods leave configured devices configured. -/
theorem DevicesConfigured.serialize {p : Params} {d : Devices} (h : DevicesConfigured p d) (k : Nat) :
    DevicesConfigured p (d.serialize p k) := by
  rw [devicesConfigured_iff] at h ⊢
  simpa only [Devices.held_serialize] using h

/-! ### What every bus event keeps of the devices -/

/-- The part of the invariant that holds of the devices at every moment: the queue's bound (rule R241), and that a
stopped serializer holds no word (log entry 9). -/
structure DevicesSound (p : Params) (d : Devices) : Prop where
  queue_le : d.queue.length ≤ p.qdepth
  stopped : d.pEn = false → d.shift = none

variable {p : Params} {d : Devices}

theorem DevicesSound.serialize (h : DevicesSound p d) (k : Nat) : DevicesSound p (d.serialize p k) :=
  ⟨(Devices.serialize_queue_length p k d).trans h.queue_le, Devices.serialize_shift_stopped p k d h.stopped⟩

theorem DevicesSound.store (h : DevicesSound p d) (r : Reg) (v : Word) (k : Nat) :
    DevicesSound p (d.store p r v k) := by
  constructor
  · obtain hq | hq | ⟨-, hroom, hq⟩ := Devices.store_queue p r v k d <;> rw [hq]
    · exact h.queue_le
    · exact Nat.zero_le _
    · simpa using hroom
  · cases r with
    | ctl =>
      intro hen
      have hstop : v.getLsbD p.regmap.enPos = false := hen
      simp only [Devices.store, Devices.storeCtl, hstop]
      cases hd : d.pEn with
      | true => rfl
      | false => exact h.stopped hd
    | fifo =>
      rw [show d.store p .fifo v k = d.storeFifo p v k from rfl, Devices.storeFifo]
      split <;> exact h.stopped
    | pwmctl | pwmdiv | sta | dmac | rng | fsel => exact h.stopped

theorem DevicesSound.storeUop (h : DevicesSound p d) (k : Nat) (u : Uop) :
    DevicesSound p (storeUop p k d u) := by
  cases u with
  | st w ix v =>
    simp only [Machine.storeUop]
    cases p.regmap.reg? w ix with
    | some r => exact h.store r v k
    | none => exact h
  | chopen | map _ | ld _ _ | wait _ | unmap _ | chclose => exact h

theorem DevicesSound.devRun (h : DevicesSound p d) (us : List Uop) (ticks : List Nat) (k : Nat) :
    DevicesSound p (devRun p us ticks k d) := by
  induction us generalizing ticks k d with
  | nil => exact h
  | cons u us ih => exact ih ((h.storeUop k u).serialize _) ..

theorem Inv.sound {s : State} (h : Inv s) : DevicesSound s.cfg s.dev := ⟨h.queue_le, h.stopped⟩

/-! ### The invariant -/

/-- The invariant looks at the devices through `DevicesSound` and `DevicesConfigured` only. -/
theorem Inv.withDevices {s : State} (h : Inv s) {d : Devices} (hd : DevicesSound s.cfg d)
    (hc : s.inst = .ready → DevicesConfigured s.cfg d) : Inv { s with dev := d } :=
  ⟨h.cfg, h.pix_length, h.n_le, h.unconfigured, h.ready, h.seq, h.run, hd.queue_le, hd.stopped, hc⟩

/-- The serializer's periods keep the invariant, whatever words wait. -/
theorem Inv.elapse {s : State} (h : Inv s) (rest : List Record) : Inv { s.elapse with cmdPort := rest } :=
  (h.withDevices (h.sound.serialize _) fun hs => (h.devices hs).serialize _).withInputs _ rest s.tr s.rsp s.err s.wave
    s.q s.fselV

/-- The end of a command keeps the invariant: the sequencer is idle. -/
theorem Inv.complete {s : State} (h : Inv s) (c : ErrCode) (data : BitVec 24) : Inv (s.complete c data) :=
  ⟨h.cfg, h.pix_length, h.n_le, h.unconfigured, h.ready, rfl, rfl, h.queue_le, h.stopped, h.devices⟩

theorem Inv.setPixel {s : State} (h : Inv s) (i : Nat) (c : Color) : Inv (s.setPixel i c) :=
  ⟨h.cfg, (List.length_set ..).trans h.pix_length, h.n_le, h.unconfigured, h.ready, h.seq, h.run, h.queue_le,
    h.stopped, h.devices⟩

/-- CREATE, granted or denied, keeps the invariant (rules R51, R150). -/
theorem Inv.create {s : State} (h : Inv s) (hs : s.inst = .unconfigured) {n : BitVec 32}
    (hn : n.toNat ≤ s.cfg.capacity) : Inv (s.acceptCreate n).runCommand := by
  obtain ⟨hzero, hm, hc⟩ := h.unconfigured hs
  obtain hg | ⟨k, hk, hg, hd⟩ := s.grants_cases
  · rw [acceptCreate_granted s n hc hg]
    have hsound := ((h.sound.serialize (s.periods 5)).devRun
      ((configurePhase s.cfg).tail.map fun m => m.uop { s with fselV := s.loadAt 4 }) (s.env.ticks.drop 5)
      (s.env.draws + 5))
    exact
      { cfg := h.cfg
        pix_length := by simp
        n_le := hn
        unconfigured := nofun
        ready := fun _ => ⟨rfl, rfl⟩
        seq := rfl
        run := rfl
        queue_le := hsound.queue_le
        stopped := hsound.stopped
        devices := fun _ => (configure_devices { s with fselV := s.loadAt 4 } h.cfg ..).1 }
  · rw [acceptCreate_denied s n k hc hm hk hg hd]
    have hsound := h.sound.serialize (s.periods (deniedTrace k).length)
    exact
      { cfg := h.cfg
        pix_length := h.pix_length
        n_le := h.n_le
        unconfigured := fun _ => ⟨hzero, rfl, rfl⟩
        ready := fun hr => absurd (hs.symm.trans hr) (by decide)
        seq := rfl
        run := rfl
        queue_le := hsound.queue_le
        stopped := hsound.stopped
        devices := fun hr => absurd (hs.symm.trans hr) (by decide) }

/-- SHOW keeps the invariant (rule R217). -/
theorem Inv.show {s : State} (h : Inv s) : Inv s.acceptShow.runCommand := by
  rw [acceptShow_run]
  have hdev := h.withDevices (h.sound.devRun _ s.env.ticks s.env.draws) fun hs =>
    show_devices s.acceptShow h.cfg (wordCount s.n.toNat) _ _ (h.devices hs)
  exact (hdev.withInputs _ s.cmdPort _ s.rsp s.err _ _ s.fselV).complete .success 0#24

/-- DESTROY keeps the invariant (rules R159, R160). -/
theorem Inv.destroy {s : State} (h : Inv s) : Inv s.acceptDestroy.runCommand := by
  rw [acceptDestroy_run]
  have hsound := h.sound.serialize (s.periods 4)
  exact
    { cfg := h.cfg
      pix_length := h.pix_length
      n_le := Nat.zero_le _
      unconfigured := fun _ => ⟨rfl, rfl, rfl⟩
      ready := nofun
      seq := rfl
      run := rfl
      queue_le := hsound.queue_le
      stopped := hsound.stopped
      devices := nofun }

/-- Every outcome of a command keeps the invariant. -/
theorem Inv.outcome {s t : State} {i : Instr} (h : Inv s) (ho : CommandOutcome s i t) : Inv t := by
  cases ho with
  | raised _ c => exact h.complete c _
  | created n hs hn => exact h.create hs hn
  | shown _ => exact h.show
  | destroyed _ => exact h.destroy
  | painted _ ix c _ _ _ => exact (h.setPixel _ c).complete _ _
  | answered ix _ _ => exact h.complete _ _

/-- Settles O11: between commands a step lets the serializer's periods pass, reports an illegal word or runs a
command, and each of these keeps the invariant. -/
theorem stepKeepsInvariant : Obligations.StepKeepsInvariant := by
  intro s t hi hstep
  have hp : s.seq.phase = .idle := by rw [hi.seq]; rfl
  cases hc : s.cmdPort with
  | nil =>
    cases (step_waits hp hc).symm.trans hstep
    exact hi.elapse s.cmdPort
  | cons w rest =>
    cases hw : decodeCmd w with
    | error e =>
      cases (step_illegal hp hc hw).symm.trans hstep
      exact (hi.elapse rest).complete _ _
    | ok i =>
      exact (hi.elapse rest).outcome (.of_exec (decodeCmd_port hw) ((step_runs hp hc hw).symm.trans hstep))

end Sys2Proof.Machine
end

section
/-! SUPPORT. Reset, the step's dispatch, the pin-function word, the devices after CREATE, and what no instruction
changes (rules R7, R23, R36, R45, R50, R51): the parameters, and outside the life-cycle commands `N` and `STATE`. -/

namespace Sys2Proof.Machine

/-! ### Reset -/

/-- Settles O9: each value of R50's table, read off the reset state. -/
theorem resetLeavesSpecValues : Obligations.ResetLeavesSpecValues :=
  ⟨rfl, rfl, rfl, rfl, fun w => by cases w <;> rfl, rfl, rfl⟩

/-- Settles O10: reset is unconfigured, holds nothing and has legal parameters. -/
theorem resetMeetsInvariant : Obligations.ResetMeetsInvariant where
  cfg := by decide
  pix_length := rfl
  n_le := Nat.zero_le _
  unconfigured _ := ⟨rfl, rfl, rfl⟩
  ready := nofun
  seq := rfl
  run := rfl
  queue_le := Nat.zero_le _
  stopped _ := rfl
  devices := nofun

/-! ### The step -/

/-- While a command runs, the step runs the bus event of the entry at `SEQ.idx` (rule R31). -/
theorem step_runs_entry {s : State} {m : MicroOp} (hp : s.seq.phase ≠ .idle)
    (hm : s.run.prog[s.seq.idx]? = some m) : step s = exec (m.uop (m.prepare s)).toInstr (m.prepare s) := by
  simp only [step, State.fetch, if_neg hp, State.fetchMicro, hm]

/-- Settles O7, one lemma a case of the dispatch. -/
theorem stepRunsDecodedInstruction : Obligations.StepRunsDecodedInstruction :=
  ⟨fun _ _ _ _ hp hc hw => step_runs hp hc hw, fun _ _ hp hm => step_runs_entry hp hm,
    fun _ hp hm => step_end hp hm, fun _ hp hc => step_waits hp hc⟩

/-! ### The pin-function word -/

/-- Outside the pin's field `FSELW(v)` has the bits of `v` (rule R107). -/
theorem fselw_outside {m : RegMap} (h : m.altPwm < 2 ^ m.fselW) (v : Word) {i : Nat}
    (hi : i < m.fselShift ∨ m.fselShift + m.fselW ≤ i) : (fselw m v).getLsbD i = v.getLsbD i := by
  have hmask : (fieldAt m.fselShift (2 ^ m.fselW - 1)).getLsbD i = false :=
    fieldAt_outside (Nat.sub_one_lt (Nat.two_pow_pos _).ne') hi
  by_cases h32 : i < 32
  · simp only [fselw, BitVec.getLsbD_or, BitVec.getLsbD_and, BitVec.getLsbD_not, hmask, fieldAt_outside h hi]
    simp [h32]
  · rw [BitVec.getLsbD_of_ge _ _ (Nat.le_of_not_lt h32), BitVec.getLsbD_of_ge _ _ (Nat.le_of_not_lt h32)]

/-- The pin is put on the PWM function once: doing it again changes no bit. -/
theorem fselw_idem (m : RegMap) (v : Word) : fselw m (fselw m v) = fselw m v := by
  unfold fselw
  apply BitVec.eq_of_getLsbD_eq
  intro i hi
  simp only [BitVec.getLsbD_or, BitVec.getLsbD_and, BitVec.getLsbD_not, hi, decide_true, Bool.true_and]
  cases v.getLsbD i <;> cases (fieldAt m.fselShift (2 ^ m.fselW - 1)).getLsbD i <;> simp

/-- Settles O47: the field is `ALT_PWM`, the mask keeps every bit outside it, and both are so the second time. -/
theorem pinFunctionStoreKeepsOtherBits : Obligations.PinFunctionStoreKeepsOtherBits := by
  intro m v h
  have hpin := (RegMap.wf_parts h).2
  have halt : m.altPwm < 2 ^ m.fselW := by
    simp only [RegMap.wfPwmGpio, Bool.and_eq_true, decide_eq_true_eq] at hpin
    exact hpin.2
  exact ⟨fselw_field hpin v, fun _ hi => fselw_outside halt v hi, fselw_idem m v⟩

/-! ### The devices after CREATE -/

/-- Settles O15: the state is that of the granted run, its devices those the configuration stores leave. -/
theorem createLeavesDevicesConfigured : Obligations.CreateLeavesDevicesConfigured := by
  intro s n hi hs hn hg
  obtain ⟨-, -, hc⟩ := hi.unconfigured hs
  have hexec : exec (.create n) s = .next (s.acceptCreate n).runCommand := by
    simp [exec, execCreate, hs, Nat.not_lt.2 hn]
  rw [hexec, acceptCreate_granted s n hc hg]
  obtain ⟨hconf, hctl, hsta⟩ := configure_devices { s with fselV := s.loadAt 4 } hi.cfg (s.env.ticks.drop 5)
    (s.env.draws + 5) (s.dev.serialize s.cfg (s.periods 5))
  have hen := congrArg (fun x => x.1.head?) hctl
  have herr := congrArg (fun x => x.2.head?) hsta
  simp only [Devices.held, List.head?_cons, Option.some.injEq] at hen herr
  exact ⟨_, rfl, rfl, rfl, rfl, rfl, rfl, hconf.clkRun, hconf.clkSel, hconf.clkDiv, hconf.dma, hconf.rng,
    BitVec.eq_of_toNat_eq herr, hen, hconf.mode, hconf.usef, hconf.rptl, hconf.pola, hconf.sbit, hconf.pin⟩

/-! ### What a bus event keeps -/

/-- Every instruction is a command or a bus event. -/
theorem port_cmd_or_toInstr (i : Instr) : i.port = .cmd ∨ ∃ u : Uop, i = u.toInstr := by
  cases i with
  | create _ | setrgb _ _ _ _ | setnamed _ _ _ | showFrame | getpix _ | destroy => exact .inl rfl
  | chopen => exact .inr ⟨.chopen, rfl⟩
  | map w => exact .inr ⟨.map w, rfl⟩
  | ld w ix => exact .inr ⟨.ld w ix, rfl⟩
  | st w ix v => exact .inr ⟨.st w ix v, rfl⟩
  | wait t => exact .inr ⟨.wait t, rfl⟩
  | unmap w => exact .inr ⟨.unmap w, rfl⟩
  | chclose => exact .inr ⟨.chclose, rfl⟩

/-- A bus event that answers a next state was admitted and had its effect (rule R71): the converse of
`exec_of_handlesAfter`. -/
theorem exec_toInstr_next {s t : State} {u : Uop} (h : exec u.toInstr s = .next t) :
    (∃ h', handlesAfter s.cfg.regmap s.handles u = some h') ∧ t = s.doUop u := by
  have hadm : ∃ h', handlesAfter s.cfg.regmap s.handles u = some h' := by
    cases u with
    | chopen =>
      by_cases hc : s.chan = .closed
      · exact ⟨_, if_pos hc⟩
      · exact absurd ((if_neg hc).symm.trans h) nofun
    | map w =>
      by_cases hc : s.chan = .opened
      · cases hw : s.mapped.get w with
        | false => exact ⟨_, if_pos ⟨hc, hw⟩⟩
        | true => exact absurd (((if_neg (not_not.2 hc)).trans (if_pos hw)).symm.trans h) nofun
      · exact absurd ((if_pos hc).symm.trans h) nofun
    | ld w ix | st w ix v =>
      cases hw : s.mapped.get w with
      | false => exact absurd ((if_pos hw).symm.trans h) nofun
      | true =>
        cases hr : s.cfg.regmap.reg? w ix with
        | none => exact absurd (((if_neg (by simp [hw])).trans (if_pos (by simp [hr]))).symm.trans h) nofun
        | some r => exact ⟨_, if_pos ⟨hw, by simp [hr]⟩⟩
    | wait t => exact ⟨_, rfl⟩
    | unmap w =>
      by_cases hw : s.mapped.get w = true
      · exact ⟨_, if_pos hw⟩
      · exact absurd ((if_neg hw).symm.trans h) nofun
    | chclose =>
      by_cases hc : s.chan = .opened
      · by_cases hm : s.mapped = Mapped.none
        · exact ⟨_, if_pos ⟨hc, hm⟩⟩
        · exact absurd (((if_neg (not_not.2 hc)).trans (if_neg hm)).symm.trans h) nofun
      · exact absurd ((if_pos hc).symm.trans h) nofun
  obtain ⟨h', hh⟩ := hadm
  cases (exec_of_handlesAfter hh).symm.trans h
  exact ⟨⟨h', hh⟩, rfl⟩

/-- What no bus event writes: the parameters and all the host can read but the handles and the trace (rule R121). -/
structure SameHostState (s t : State) : Prop where
  cfg : t.cfg = s.cfg
  pix : t.pix = s.pix
  n : t.n = s.n
  inst : t.inst = s.inst
  err : t.err = s.err
  wave : t.wave = s.wave
  q : t.q = s.q
  cmdPort : t.cmdPort = s.cmdPort
  rsp : t.rsp = s.rsp

/-- An acquisition is granted or denied (rules R122, R123). -/
theorem State.doUop_acquire (s : State) {u : Uop} (h : acquires u = true) :
    s.doUop u = if s.grantAnswer then s.granted u else s.denied u := by
  cases hg : s.grantAnswer <;> cases u <;> simp only [acquires, Bool.false_eq_true] at h
  · exact State.doChopen_denied s hg
  · exact State.doMap_denied s _ hg
  · exact State.doChopen_granted s hg
  · exact State.doMap_granted s _ hg

theorem State.doUop_sameHostState (s : State) (u : Uop) : SameHostState s (s.doUop u) := by
  cases u with
  | chopen | map w => rw [State.doUop_acquire s rfl]; split <;> constructor <;> rfl
  | ld _ _ | st _ _ _ | wait _ | unmap _ | chclose => constructor <;> rfl

/-! ### The parameters, `N` and `STATE` -/

/-- The end of a command sets the response, and at most `N` and `STATE` before (rules R31, R158, R159). -/
theorem State.finish_eq (s : State) (h : s.seq.phase ≠ .idle) :
    ∃ n inst c, s.finish = { s with n := n, inst := inst }.complete c 0#24 := by
  unfold State.finish
  split
  · exact ⟨_, _, _, rfl⟩
  · exact ⟨_, _, _, rfl⟩
  · exact ⟨_, _, _, rfl⟩
  · exact absurd ‹_› h
  · exact ⟨_, _, _, rfl⟩

theorem State.finish_cfg (s : State) (h : s.seq.phase ≠ .idle) : s.finish.cfg = s.cfg := by
  obtain ⟨n, inst, c, hf⟩ := s.finish_eq h
  rw [hf]; rfl

theorem runToIdle_cfg (fuel : Nat) (s : State) : (runToIdle fuel s).cfg = s.cfg := by
  induction fuel generalizing s with
  | zero => rfl
  | succ fuel ih =>
    by_cases hp : s.seq.phase = .idle
    · rw [runToIdle_idle _ _ hp]
    · rw [runToIdle_step _ _ hp, ih]
      cases hm : s.run.prog[s.seq.idx]? with
      | none => rw [State.microStep_end _ hm, State.finish_cfg _ hp]
      | some m => rw [State.microStep_entry _ _ hm, State.runEntry_cfg]

theorem CommandOutcome.cfg {s t : State} {i : Instr} (h : CommandOutcome s i t) : t.cfg = s.cfg := by
  cases h with
  | raised _ c | painted _ ix c _ _ _ | answered ix _ _ => rfl
  | created n _ _ | shown _ | destroyed _ => exact runToIdle_cfg ..

theorem exec_cfg {i : Instr} {s t : State} (h : exec i s = .next t) : t.cfg = s.cfg := by
  obtain hp | ⟨u, rfl⟩ := port_cmd_or_toInstr i
  · exact (CommandOutcome.of_exec hp h).cfg
  · obtain ⟨-, rfl⟩ := exec_toInstr_next h
    exact (s.doUop_sameHostState u).cfg

theorem step_cfg {s t : State} (h : step s = .next t) : t.cfg = s.cfg := by
  by_cases hp : s.seq.phase = .idle
  · cases hc : s.cmdPort with
    | nil => cases (step_waits hp hc).symm.trans h; rfl
    | cons w rest =>
      cases hw : decodeCmd w with
      | error e => cases (step_illegal hp hc hw).symm.trans h; rfl
      | ok i => exact (exec_cfg ((step_runs hp hc hw).symm.trans h)).trans rfl
  · cases hm : s.run.prog[s.seq.idx]? with
    | none => cases (step_end hp hm).symm.trans h; exact s.finish_cfg hp
    | some m => exact (exec_cfg ((step_runs_entry hp hm).symm.trans h)).trans (by cases m <;> rfl)

/-- Settles O13: no bus event, no end of a command and no move of the port writes the parameters. -/
theorem parametersNeverChange : Obligations.ParametersNeverChange :=
  ⟨fun _ _ _ h => exec_cfg h, fun _ _ h => step_cfg h⟩

/-- Settles O54: a bus event writes neither, and of the commands only CREATE and DESTROY have an outcome that does. -/
theorem onlyCreateAndDestroyChangeLifeCycle : Obligations.OnlyCreateAndDestroyChangeLifeCycle := by
  intro s t i h hcreate hdestroy
  obtain hp | ⟨u, rfl⟩ := port_cmd_or_toInstr i
  · cases CommandOutcome.of_exec hp h with
    | raised _ c | painted _ ix c _ _ _ | answered ix _ _ => exact ⟨rfl, rfl⟩
    | shown _ => rw [acceptShow_run]; exact ⟨rfl, rfl⟩
    | created n _ _ => exact absurd rfl (hcreate n)
    | destroyed _ => exact absurd rfl hdestroy
  · obtain ⟨-, rfl⟩ := exec_toInstr_next h
    have hsame := s.doUop_sameHostState u
    exact ⟨hsame.n, hsame.inst⟩

end Sys2Proof.Machine
end

section
/-! SUPPORT. The trace and the responses are write-only (rule R35): every operation commutes with putting a longer past
before both. -/

namespace Sys2Proof.Machine

/-- The state with a longer past: more records before the trace, more words before the responses. -/
def State.withPast (s : State) (past : List Record) (said : List Word) : State :=
  { s with tr := past ++ s.tr, rsp := said ++ s.rsp }

variable (past : List Record) (said : List Word) (s : State)

@[simp] theorem State.withPast_cfg : (s.withPast past said).cfg = s.cfg := rfl
@[simp] theorem State.withPast_seq : (s.withPast past said).seq = s.seq := rfl
@[simp] theorem State.withPast_run : (s.withPast past said).run = s.run := rfl

theorem State.afterUop_withPast (rec : Record) (d : Devices) :
    (s.withPast past said).afterUop rec d = (s.afterUop rec d).withPast past said := by
  simp only [State.withPast, State.afterUop, List.append_assoc]

theorem State.complete_withPast (c : ErrCode) (data : BitVec 24) :
    (s.withPast past said).complete c data = (s.complete c data).withPast past said := by
  simp only [State.withPast, State.complete, List.append_assoc]

theorem State.granted_withPast (u : Uop) :
    (s.withPast past said).granted u = (s.granted u).withPast past said := by
  cases u <;> simp only [State.withPast, State.granted, State.acquired, State.afterUop, List.append_assoc]

theorem State.denied_withPast (u : Uop) :
    (s.withPast past said).denied u = (s.denied u).withPast past said := by
  simp only [State.withPast, State.denied, State.afterDenial, State.afterUop, List.append_assoc]

theorem State.doUop_withPast (u : Uop) : (s.withPast past said).doUop u = (s.doUop u).withPast past said := by
  cases u with
  | chopen | map w =>
    rw [State.doUop_acquire _ rfl, State.doUop_acquire _ rfl, State.granted_withPast, State.denied_withPast]
    exact (apply_ite (State.withPast · past said) _ _ _).symm
  | ld w ix => simp only [State.doUop, State.doLd_eq, State.afterUop_withPast]; rfl
  | st w ix v => exact State.afterUop_withPast past said s _ _
  | wait t => exact State.afterUop_withPast past said s _ _
  | unmap w => simp only [State.doUop, State.doUnmap_eq, State.afterUop_withPast]; rfl
  | chclose => simp only [State.doUop, State.doChclose_eq, State.afterUop_withPast]; rfl

theorem State.runEntry_withPast (m : MicroOp) :
    (s.withPast past said).runEntry m = (s.runEntry m).withPast past said := by
  cases m with
  | initThenLoad => exact State.doUop_withPast past said s.initPixels _
  | bus _ | storeFsel | storeWord _ => exact State.doUop_withPast past said s _

theorem State.finish_withPast : (s.withPast past said).finish = s.finish.withPast past said := by
  simp only [State.finish, State.withPast_run, State.withPast_seq]
  split
  · exact State.complete_withPast past said { s with inst := .ready } _ _
  · exact State.complete_withPast past said { s with n := 0#32, inst := .unconfigured } _ _
  · exact State.complete_withPast past said s _ _
  · rfl
  · exact State.complete_withPast past said s _ _

theorem runToIdle_withPast (fuel : Nat) :
    runToIdle fuel (s.withPast past said) = (runToIdle fuel s).withPast past said := by
  induction fuel generalizing s with
  | zero => rfl
  | succ fuel ih =>
    by_cases hp : s.seq.phase = .idle
    · rw [runToIdle_idle _ _ hp, runToIdle_idle _ (s.withPast past said) hp]
    · rw [runToIdle_step _ _ hp, runToIdle_step _ (s.withPast past said) hp, ← ih]
      cases hm : s.run.prog[s.seq.idx]? with
      | none =>
        rw [State.microStep_end _ hm, State.microStep_end (s.withPast past said) hm, State.finish_withPast]
      | some m =>
        rw [State.microStep_entry _ m hm, State.microStep_entry (s.withPast past said) m hm,
          State.runEntry_withPast]

theorem State.runCommand_withPast :
    (s.withPast past said).runCommand = s.runCommand.withPast past said :=
  runToIdle_withPast past said s _

/-- `t'` is `t` with the longer past. -/
def Later (t t' : State) : Prop := t' = t.withPast past said

/-- A command does the same with a longer past. -/
theorem exec_command_later {i : Instr} (hp : i.port = .cmd) :
    ∃ t t', exec i s = .next t ∧ exec i (s.withPast past said) = .next t' ∧ Later past said t t' := by
  have done (c : ErrCode) (data : BitVec 24) : Later past said (s.complete c data) _ :=
    State.complete_withPast past said s c data
  have ran (t : State) : Later past said t.runCommand _ := State.runCommand_withPast past said t
  have painted (ix : Nat) (c : Color) : Later past said ((s.setPixel ix c).respond 0#24) _ :=
    State.complete_withPast past said (s.setPixel ix c) .success 0#24
  cases i with
  | create n =>
    exact ⟨_, _, rfl, rfl, rel_ite (fun _ => done _ _) fun _ => rel_ite (fun _ => done _ _)
      fun _ => ran (s.acceptCreate n)⟩
  | setrgb ix r g b =>
    exact ⟨_, _, rfl, rfl, rel_ite (fun _ => done _ _) fun _ => rel_ite (fun _ => painted _ _) fun _ => done _ _⟩
  | setnamed ix name lum =>
    refine ⟨_, _, rfl, rfl, rel_ite (fun _ => done _ _) fun _ => rel_ite (fun _ => ?_) fun _ => done _ _⟩
    rw [State.withPast_cfg]
    cases namedColor s.cfg name with
    | none => exact done _ _
    | some c => exact painted _ _
  | showFrame => exact ⟨_, _, rfl, rfl, rel_ite (fun _ => done _ _) fun _ => ran s.acceptShow⟩
  | getpix ix =>
    exact ⟨_, _, rfl, rfl, rel_ite (fun _ => done _ _) fun _ => rel_ite (fun _ => done _ _) fun _ => done _ _⟩
  | destroy => exact ⟨_, _, rfl, rfl, rel_ite (fun _ => done _ _) fun _ => ran s.acceptDestroy⟩
  | chopen | map _ | ld _ _ | st _ _ _ | wait _ | unmap _ | chclose => cases hp

/-- Settles O59: a command and a bus event commute with the longer past, and admission does not look at it. -/
theorem traceIsWriteOnly : Obligations.TraceIsWriteOnly := by
  intro s t i past said h
  obtain hp | ⟨u, rfl⟩ := port_cmd_or_toInstr i
  · obtain ⟨t₀, t', ht, ht', rfl⟩ := exec_command_later past said s hp
    cases ht.symm.trans h
    exact ht'
  · obtain ⟨⟨h', hadm⟩, rfl⟩ := exec_toInstr_next h
    have hexec : exec u.toInstr (s.withPast past said) = .next ((s.withPast past said).doUop u) :=
      exec_of_handlesAfter hadm
    rw [State.doUop_withPast] at hexec
    exact hexec

end Sys2Proof.Machine
end

section
/-! SUPPORT. No command reads what an earlier one left in `ERR`, `WAVE`, `Q` or `FSEL_V` (rules R25, R29, R32): two runs
from states that differ there only, side by side. A micro-program may read the latch after its own load and the queue
that SHOW has encoded. -/

namespace Sys2Proof.Machine

/-! ### Every micro-program ends -/

theorem foldl_runEntry_phase (ms : List MicroOp) (s : State) :
    (ms.foldl State.runEntry s).seq.phase = s.seq.phase := by
  induction ms generalizing s with
  | nil => rfl
  | cons m ms ih => rw [List.foldl_cons, ih, State.runEntry_phase]

theorem runToIdle_undeniable_ends {fuel : Nat} {s : State} (hp : s.seq.phase ≠ .idle)
    (hu : ∀ m ∈ s.run.prog.drop s.seq.idx, m.undeniable = true) (hf : s.run.prog.length - s.seq.idx < fuel) :
    (runToIdle fuel s).seq.phase = .idle := by
  rw [runToIdle_undeniable _ fuel s hp rfl hu (by rwa [List.length_drop])]
  exact State.finish_phase _ (by rwa [foldl_runEntry_phase])

/-- What a cleanup holds: releases, none of which can be denied (rule R150). -/
theorem mem_cleanup {done : List MicroOp} {m : MicroOp} (h : m ∈ cleanup done) :
    m = .bus .chclose ∨ ∃ w, m = .bus (.unmap w) := by
  obtain ⟨x, -, hx⟩ := List.mem_filterMap.1 h
  unfold MicroOp.undo at hx
  split at hx <;> cases hx
  · exact .inl rfl
  · exact .inr ⟨_, rfl⟩

theorem cleanup_undeniable {done : List MicroOp} {m : MicroOp} (h : m ∈ cleanup done) : m.undeniable = true := by
  obtain rfl | ⟨w, rfl⟩ := mem_cleanup h <;> rfl

/-- After a denial what is left to run is the cleanup. -/
theorem State.denied_drop (s : State) (u : Uop) (h : s.seq.idx < s.run.prog.length) :
    (s.denied u).run.prog.drop (s.denied u).seq.idx = cleanup (s.run.prog.take s.seq.idx) :=
  List.drop_left' (show (s.run.prog.take (s.seq.idx + 1)).length = s.seq.idx + 1 by rw [List.length_take]; omega)

/-- A micro-program of acquisitions, then of entries that cannot be denied, ends, denied or not, when the fuel is enough
for both ways. -/
theorem runToIdle_ends (us : List Uop) (rest : List MicroOp) (fuel : Nat) (s : State) (hp : s.seq.phase ≠ .idle)
    (hm : s.run.prog.drop s.seq.idx = us.map MicroOp.bus ++ rest) (ha : ∀ u ∈ us, acquires u = true)
    (hu : ∀ m ∈ rest, m.undeniable = true) (hf : us.length + rest.length < fuel)
    (hc : s.seq.idx + 2 * us.length < fuel) : (runToIdle fuel s).seq.phase = .idle := by
  have hlen := congrArg List.length hm
  rw [List.length_drop, List.length_append, List.length_map] at hlen
  induction us generalizing fuel s with
  | nil => exact runToIdle_undeniable_ends hp (by rw [hm]; exact hu) (by rw [List.length_nil] at hlen hf; omega)
  | cons u us ih =>
    obtain ⟨fuel, rfl⟩ : ∃ f, fuel = f + 1 := ⟨fuel - 1, by omega⟩
    rw [List.length_cons] at hlen hf hc
    obtain ⟨hau, haus⟩ := List.forall_mem_cons.1 ha
    have h0 : s.run.prog[s.seq.idx]? = some (.bus u) := by
      have := congrArg (fun l => l[0]?) hm
      simpa using this
    have ht : s.run.prog.drop (s.seq.idx + 1) = us.map MicroOp.bus ++ rest := by
      rw [← List.drop_drop, hm]; rfl
    cases hg : s.grantAt 0 with
    | true =>
      rw [runToIdle_granted fuel s u hp h0 hau hg]
      have hphase : (s.granted u).seq.phase = s.seq.phase := by rw [State.granted_seq]
      have hidx : (s.granted u).seq.idx = s.seq.idx + 1 := by rw [State.granted_seq]
      have hrun := s.granted_run u
      exact ih fuel (s.granted u) (by rwa [hphase]) (by rwa [hrun, hidx]) haus (by omega) (by omega)
        (by rw [hrun, hidx]; omega)
    | false =>
      rw [runToIdle_denied fuel s u hp h0 hau hg]
      have hdrop := s.denied_drop u (by omega)
      have hclean : (cleanup (s.run.prog.take s.seq.idx)).length ≤ s.seq.idx :=
        (List.length_filterMap_le _ _).trans (by simp)
      refine runToIdle_undeniable_ends hp (fun m hmem => cleanup_undeniable (hdrop ▸ hmem)) ?_
      rw [← List.length_drop, hdrop]
      omega

theorem runCommand_ends {s : State} {us : List Uop} {rest : List MicroOp} (hp : s.seq.phase ≠ .idle)
    (h0 : s.seq.idx = 0) (hprog : s.run.prog = us.map MicroOp.bus ++ rest) (ha : ∀ u ∈ us, acquires u = true)
    (hu : ∀ m ∈ rest, m.undeniable = true) (hlen : us.length ≤ rest.length) : s.runCommand.seq.phase = .idle := by
  have hsum : s.run.prog.length = us.length + rest.length := by rw [hprog]; simp
  exact runToIdle_ends us rest _ s hp (by rw [h0]; exact hprog) ha hu (by omega) (by omega)

/-- CREATE ends from every state, with the channel open or closed. -/
theorem acceptCreate_ends (s : State) (n : BitVec 32) : (s.acceptCreate n).runCommand.seq.phase = .idle := by
  obtain ⟨us, hus, ha, hlen⟩ : ∃ us : List Uop, mappingPhase s.chan = us.map MicroOp.bus ∧
      (∀ u ∈ us, acquires u = true) ∧ us.length ≤ 4 := by
    cases s.chan
    · exact ⟨requests, rfl, by decide, by decide⟩
    · exact ⟨requests.tail, rfl, by decide, by decide⟩
  have hprog : (s.acceptCreate n).run.prog = us.map MicroOp.bus ++ configurePhase s.cfg := by rw [← hus]; rfl
  exact runCommand_ends nofun rfl hprog ha (configurePhase_undeniable _) (hlen.trans (by simp [configurePhase]))

/-! ### Two runs side by side -/

/-- The state with other values in the transient fields. -/
def State.withTransients (s : State) (wave q : List Word) (f : Word) (e : BitVec 4) : State :=
  { s with wave := wave, q := q, fselV := f, err := e }

/-- Two states that differ in the transient fields only: not in the latch when it is `latched`, not in the queue when
it is `queued`, and not in `ERR` once the command has ended. -/
def AgreeBut (latched queued : Bool) (s s' : State) : Prop :=
  ∃ wave q f e, s' = s.withTransients wave q f e ∧
    (latched = true → f = s.fselV) ∧ (queued = true → q = s.q) ∧ (s.seq.phase = .idle → e = s.err)

/-- An entry whose operands are not read from what an earlier command left. -/
def MicroOp.readable (latched queued : Bool) : MicroOp → Bool
  | .bus _ | .initThenLoad => true
  | .storeFsel => latched
  | .storeWord _ => queued

/-- U4 latches the value it loads (rules R32, R147). -/
def MicroOp.latches : MicroOp → Bool
  | .initThenLoad => true
  | .bus _ | .storeFsel | .storeWord _ => false

/-- The entries of a list are readable one after the other; U4 latches. -/
def covered (queued : Bool) : Bool → List MicroOp → Bool
  | _, [] => true
  | latched, m :: ms => m.readable latched queued && covered queued (latched || m.latches) ms

variable {latched queued : Bool}

theorem covered_of_readable {ms : List MicroOp} (h : ∀ m ∈ ms, m.readable false queued = true) (latched : Bool) :
    covered queued latched ms = true := by
  induction ms generalizing latched with
  | nil => rfl
  | cons m ms ih =>
    obtain ⟨hm, hms⟩ := List.forall_mem_cons.1 h
    rw [covered, ih hms, Bool.and_true]
    cases m with
    | storeFsel => cases hm
    | bus _ | initThenLoad | storeWord _ => exact hm

theorem cleanup_covered (done : List MicroOp) (latched : Bool) : covered queued latched (cleanup done) = true :=
  covered_of_readable (fun m hm => by obtain rfl | ⟨w, rfl⟩ := mem_cleanup hm <;> rfl) latched

theorem AgreeBut.weaken {s s' : State} (h : AgreeBut latched queued s s') : AgreeBut false queued s s' := by
  obtain ⟨wave, q, f, e, heq, -, hq, he⟩ := h
  exact ⟨wave, q, f, e, heq, nofun, hq, he⟩

/-- A bus event reads no transient field, and leaves a latch that agreed agreeing. -/
theorem State.doUop_withTransients (s : State) (u : Uop) (wave q : List Word) (f : Word) (e : BitVec 4) :
    ∃ f', (s.withTransients wave q f e).doUop u = (s.doUop u).withTransients wave q f' e ∧
      (f = s.fselV → f' = (s.doUop u).fselV) := by
  cases u with
  | chopen | map w =>
    refine ⟨f, ?_⟩
    rw [State.doUop_acquire _ rfl, State.doUop_acquire _ rfl,
      show (s.withTransients wave q f e).grantAnswer = s.grantAnswer from rfl]
    cases s.grantAnswer <;> exact ⟨rfl, id⟩
  | ld w ix => exact ⟨s.loadAnswer, rfl, fun _ => rfl⟩
  | st _ _ _ | wait _ | unmap _ | chclose => exact ⟨f, rfl, id⟩

theorem AgreeBut.doUop {s s' : State} (h : AgreeBut latched queued s s') (hp : s.seq.phase ≠ .idle) (u : Uop) :
    AgreeBut latched queued (s.doUop u) (s'.doUop u) := by
  obtain ⟨wave, q, f, e, rfl, hf, hq, -⟩ := h
  obtain ⟨f', heq, hf'⟩ := s.doUop_withTransients u wave q f e
  have hphase : (s.doUop u).seq.phase = s.seq.phase := State.runEntry_phase s (.bus u)
  exact ⟨wave, q, f', e, heq, fun hl => hf' (hf hl), fun hk => (hq hk).trans (s.doUop_sameHostState u).q.symm,
    fun hi => absurd (hphase.symm.trans hi) hp⟩

/-- A readable entry issues the same bus event on both sides. -/
theorem AgreeBut.uop_eq {s s' : State} {m : MicroOp} (h : AgreeBut latched queued s s')
    (hm : m.readable latched queued = true) : m.uop s' = m.uop s := by
  obtain ⟨wave, q, f, e, rfl, hf, hq, -⟩ := h
  cases m with
  | bus _ | initThenLoad => rfl
  | storeFsel => rw [hf hm]; rfl
  | storeWord w => rw [hq hm]; rfl

/-- A readable entry keeps the agreement, and U4 makes the latches agree. -/
theorem AgreeBut.runEntry {s s' : State} {m : MicroOp} (h : AgreeBut latched queued s s')
    (hp : s.seq.phase ≠ .idle) (hm : m.readable latched queued = true) :
    AgreeBut (latched || m.latches) queued (s.runEntry m) (s'.runEntry m) := by
  have huop := h.uop_eq hm
  cases m with
  | initThenLoad =>
    obtain ⟨wave, q, f, e, rfl, -, hq, -⟩ := h
    exact ⟨wave, q, s.initPixels.loadAnswer, e, rfl, fun _ => rfl, hq, fun hi => absurd hi hp⟩
  | bus _ | storeFsel | storeWord _ =>
    simp only [State.runEntry, MicroOp.prepare, huop, MicroOp.latches, Bool.or_false]
    exact h.doUop hp _

/-- After an entry the sequencer goes on with its list or has turned to the cleanup. -/
theorem State.runEntry_run_cases (s : State) (m : MicroOp) :
    (s.runEntry m).run = s.run ∨ (s.runEntry m).run = s.afterDenial.run := by
  cases hu : m.undeniable with
  | true => exact .inl (s.runEntry_run m hu)
  | false =>
    obtain ⟨u, rfl, ha⟩ : ∃ u, m = .bus u ∧ acquires u = true := by
      cases m with
      | bus u => cases u <;> simp_all [MicroOp.undeniable, acquires]
      | initThenLoad | storeFsel | storeWord _ => cases hu
    rw [show s.runEntry (.bus u) = s.doUop u from rfl, State.doUop_acquire s ha]
    split
    · exact .inl (s.granted_run u)
    · exact .inr rfl

theorem AgreeBut.finish {s s' : State} (h : AgreeBut latched queued s s') (hp : s.seq.phase ≠ .idle) :
    AgreeBut latched queued s.finish s'.finish := by
  obtain ⟨wave, q, f, e, rfl, hf, hq, -⟩ := h
  unfold State.finish
  rw [show (s.withTransients wave q f e).run = s.run from rfl,
    show (s.withTransients wave q f e).seq = s.seq from rfl]
  split
  · exact ⟨wave, q, f, _, rfl, hf, hq, fun _ => rfl⟩
  · exact ⟨wave, q, f, _, rfl, hf, hq, fun _ => rfl⟩
  · exact ⟨wave, q, f, _, rfl, hf, hq, fun _ => rfl⟩
  · exact absurd ‹_› hp
  · exact ⟨wave, q, f, _, rfl, hf, hq, fun _ => rfl⟩

/-- Two agreeing states run a covered list to agreeing states. -/
theorem AgreeBut.runToIdle (fuel : Nat) {s s' : State} (h : AgreeBut latched queued s s')
    (hc : covered queued latched (s.run.prog.drop s.seq.idx) = true) :
    AgreeBut false queued (runToIdle fuel s) (runToIdle fuel s') := by
  induction fuel generalizing latched s s' with
  | zero => exact h.weaken
  | succ fuel ih =>
    obtain ⟨hseq, hrun⟩ : s'.seq = s.seq ∧ s'.run = s.run := by
      obtain ⟨wave, q, f, e, rfl, -⟩ := h; exact ⟨rfl, rfl⟩
    by_cases hp : s.seq.phase = .idle
    · rw [runToIdle_idle _ s hp, runToIdle_idle _ s' (hseq ▸ hp)]
      exact h.weaken
    · rw [runToIdle_step _ s hp, runToIdle_step _ s' (hseq ▸ hp)]
      cases hm : s.run.prog[s.seq.idx]? with
      | none =>
        rw [State.microStep_end s hm, State.microStep_end s' (by rw [hrun, hseq, hm]),
          runToIdle_idle _ _ (s.finish_phase hp), runToIdle_idle _ _ (s'.finish_phase (hseq ▸ hp))]
        exact (h.finish hp).weaken
      | some m =>
        rw [State.microStep_entry s m hm, State.microStep_entry s' m (by rw [hrun, hseq, hm])]
        have hdrop : s.run.prog.drop s.seq.idx = m :: s.run.prog.drop (s.seq.idx + 1) := by
          rw [List.drop_eq_getElem?_toList_append, hm]; rfl
        rw [hdrop, covered, Bool.and_eq_true] at hc
        obtain ⟨hread, hrest⟩ := hc
        refine ih (h.runEntry hp hread) ?_
        rw [State.runEntry_idx]
        obtain hr | hr := s.runEntry_run_cases m <;> rw [hr]
        · exact hrest
        · have hlt := (List.getElem?_eq_some_iff.1 hm).1
          rw [show s.afterDenial.run.prog.drop (s.seq.idx + 1) = cleanup (s.run.prog.take s.seq.idx) from
            s.denied_drop .chopen hlt]
          exact cleanup_covered _ _

theorem AgreeBut.runCommand {s s' : State} (h : AgreeBut latched queued s s')
    (hc : covered queued latched (s.run.prog.drop s.seq.idx) = true) :
    AgreeBut false queued s.runCommand s'.runCommand := by
  have hrun : s'.run = s.run := by obtain ⟨wave, q, f, e, rfl, -⟩ := h; rfl
  rw [State.runCommand, State.runCommand, hrun]
  exact h.runToIdle _ hc

/-! ### The commands -/

/-- Two states that differ in the transient arrays and the latch at most. -/
def SameButTransients (t t' : State) : Prop := t' = { t with wave := t'.wave, q := t'.q, fselV := t'.fselV }

theorem AgreeBut.same {t t' : State} (h : AgreeBut latched queued t t') (hi : t.seq.phase = .idle) :
    SameButTransients t t' := by
  obtain ⟨wave, q, f, e, rfl, -, -, he⟩ := h
  rw [he hi]
  rfl

theorem showProgram_readable (p : Params) (m : Nat) :
    ∀ x ∈ showProgram p m, x.readable false true = true := by
  simp only [showProgram, queuePhase, List.forall_mem_append, List.mem_flatMap]
  refine ⟨⟨by simp [stOp, settleOp, MicroOp.readable], ?_⟩, by simp [stOp, MicroOp.readable]⟩
  rintro x ⟨w, -, hx⟩
  obtain rfl | rfl : x = .storeWord w ∨ x = .bus (.wait .fifoGap) := by simpa using hx
  all_goals rfl

section
variable (s : State) (wave q : List Word) (f : Word) (e : BitVec 4)

theorem complete_sameButTransients (c : ErrCode) (data : BitVec 24) :
    SameButTransients (s.complete c data) ((s.withTransients wave q f e).complete c data) := rfl

theorem create_sameButTransients (n : BitVec 32) :
    SameButTransients (s.acceptCreate n).runCommand ((s.withTransients wave q f e).acceptCreate n).runCommand := by
  have h : AgreeBut false false (s.acceptCreate n) ((s.withTransients wave q f e).acceptCreate n) :=
    ⟨wave, q, f, e, rfl, nofun, nofun, nofun⟩
  refine (h.runCommand ?_).same (acceptCreate_ends s n)
  rw [show (s.acceptCreate n).run.prog.drop (s.acceptCreate n).seq.idx = createProgram s.cfg s.chan from rfl]
  cases s.chan <;> rfl

theorem show_sameButTransients :
    SameButTransients s.acceptShow.runCommand (s.withTransients wave q f e).acceptShow.runCommand := by
  have h : AgreeBut false true s.acceptShow (s.withTransients wave q f e).acceptShow :=
    ⟨_, _, f, e, rfl, nofun, fun _ => rfl, nofun⟩
  have hidle : s.acceptShow.runCommand.seq.phase = .idle := by rw [acceptShow_run]; rfl
  refine (h.runCommand ?_).same hidle
  exact covered_of_readable (showProgram_readable _ _) _

theorem destroy_sameButTransients :
    SameButTransients s.acceptDestroy.runCommand (s.withTransients wave q f e).acceptDestroy.runCommand := by
  rw [acceptDestroy_run, acceptDestroy_run]
  rfl

end

/-- Settles O58, command by command. -/
theorem nothingReadsTransientState : Obligations.NothingReadsTransientState := by
  intro s i wave q f e hp
  suffices h : ∃ t t', exec i s = .next t ∧ exec i (s.withTransients wave q f e) = .next t' ∧
      SameButTransients t t' from h
  have done (c : ErrCode) (data : BitVec 24) := complete_sameButTransients s wave q f e c data
  cases i with
  | create n =>
    exact ⟨_, _, rfl, rfl, rel_ite (fun _ => done _ _)
      fun _ => rel_ite (fun _ => done _ _) fun _ => create_sameButTransients s wave q f e n⟩
  | setrgb ix r g b =>
    exact ⟨_, _, rfl, rfl, rel_ite (fun _ => done _ _)
      fun _ => rel_ite (fun _ => complete_sameButTransients (s.setPixel ..) ..) fun _ => done _ _⟩
  | setnamed ix name lum =>
    refine ⟨_, _, rfl, rfl, rel_ite (fun _ => done _ _) fun _ => rel_ite (fun _ => ?_) fun _ => done _ _⟩
    rw [show (s.withTransients wave q f e).cfg = s.cfg from rfl]
    cases namedColor s.cfg name with
    | none => exact done _ _
    | some c => exact complete_sameButTransients (s.setPixel ..) ..
  | showFrame =>
    exact ⟨_, _, rfl, rfl, rel_ite (fun _ => done _ _) fun _ => show_sameButTransients s wave q f e⟩
  | getpix ix =>
    exact ⟨_, _, rfl, rfl, rel_ite (fun _ => done _ _) fun _ => rel_ite (fun _ => done _ _) fun _ => done _ _⟩
  | destroy =>
    exact ⟨_, _, rfl, rfl, rel_ite (fun _ => done _ _) fun _ => destroy_sameButTransients s wave q f e⟩
  | chopen | map _ | ld _ _ | st _ _ _ | wait _ | unmap _ | chclose => cases hp

end Sys2Proof.Machine
end

section
/-! SUPPORT. The entries of `PIX` from `N` on cannot be observed (rules R22, R190): two runs from buffers that agree
below `N`. -/

namespace Sys2Proof.Machine

/-! ### The encoder -/

/-- The encoder reads the entries below `n` only (rule R190). -/
theorem encodeWave_congr {pix pix' : List Color} {n : Nat} (h : ∀ p < n, pix[p]? = pix'[p]?) :
    encodeWave pix n = encodeWave pix' n := by
  refine List.map_congr_left fun w _ => congrArg wordOf (funext fun i => ?_)
  by_cases hb : 32 * w + i < streamLength n
  · rw [streamBit_congr pix pix' n _ hb h]
  · simp [hb]

theorem encodeQueue_congr {pix pix' : List Color} {n : Nat} (h : ∀ p < n, pix[p]? = pix'[p]?) :
    encodeQueue pix n = encodeQueue pix' n :=
  congrArg (List.map bitrev32) (encodeWave_congr h)

/-! ### Two runs side by side -/

/-- Two states that differ in entries of `PIX` from `N` on at most. -/
def SameBelowLength (t t' : State) : Prop :=
  t' = { t with pix := t'.pix } ∧ ∀ p < t.n.toNat, t'.pix[p]? = t.pix[p]?

theorem SameBelowLength.refl (t : State) : SameBelowLength t t := ⟨rfl, fun _ _ => rfl⟩

theorem SameBelowLength.complete {t t' : State} (h : SameBelowLength t t') (c : ErrCode) (data : BitVec 24) :
    SameBelowLength (t.complete c data) (t'.complete c data) := by
  obtain ⟨heq, hpix⟩ := h
  rw [heq]
  exact ⟨rfl, hpix⟩

/-- Writing an entry below `N` keeps the agreement. -/
theorem SameBelowLength.setPixel {t t' : State} (h : SameBelowLength t t') {i : Nat} (hi : i < t.n.toNat)
    (c : Color) : SameBelowLength (t.setPixel i c) (t'.setPixel i c) := by
  obtain ⟨heq, hpix⟩ := h
  refine ⟨by rw [heq]; rfl, fun p hp => ?_⟩
  have hlen : i < t'.pix.length ↔ i < t.pix.length := by
    rw [← not_iff_not, Nat.not_lt, Nat.not_lt, ← List.getElem?_eq_none_iff, hpix i hi, List.getElem?_eq_none_iff]
  simp only [State.setPixel_pix, List.getElem?_set, hlen, hpix p hp]

section
variable {s s' : State} (h : SameBelowLength s s')
include h

/-- CREATE empties the buffer or, denied, leaves it (rules R144, R150). -/
theorem SameBelowLength.create (hi : Inv s) (hs : s.inst = .unconfigured) (n : BitVec 32) :
    SameBelowLength (s.acceptCreate n).runCommand (s'.acceptCreate n).runCommand := by
  obtain ⟨-, hm, hc⟩ := hi.unconfigured hs
  obtain ⟨heq, hpix⟩ := h
  obtain hg | ⟨k, hk, hg, hd⟩ := s.grants_cases
  · rw [heq, acceptCreate_granted s n hc hg, acceptCreate_granted { s with pix := s'.pix } n hc hg]
    exact .refl _
  · rw [heq, acceptCreate_denied s n k hc hm hk hg hd,
      acceptCreate_denied { s with pix := s'.pix } n k hc hm hk hg hd]
    exact ⟨rfl, hpix⟩

/-- SHOW encodes the same frame from both buffers (rule R190). -/
theorem SameBelowLength.show : SameBelowLength s.acceptShow.runCommand s'.acceptShow.runCommand := by
  obtain ⟨heq, hpix⟩ := h
  have haccept : s'.acceptShow = { s.acceptShow with pix := s'.pix } := by
    rw [heq]
    simp only [State.acceptShow, encodeWave_congr hpix, encodeQueue_congr hpix]
    rfl
  have huop : (fun m : MicroOp => m.uop s'.acceptShow) = fun m => m.uop s.acceptShow := by
    funext m
    rw [haccept]
    cases m <;> rfl
  rw [acceptShow_run s, acceptShow_run s', huop, heq]
  simp only [encodeWave_congr hpix, encodeQueue_congr hpix]
  exact ⟨rfl, hpix⟩

theorem SameBelowLength.destroy : SameBelowLength s.acceptDestroy.runCommand s'.acceptDestroy.runCommand := by
  obtain ⟨heq, hpix⟩ := h
  rw [acceptDestroy_run s, acceptDestroy_run s', heq]
  exact ⟨rfl, nofun⟩

end

/-- Settles O57, command by command. -/
theorem entriesBeyondLengthAreUnobservable : Obligations.EntriesBeyondLengthAreUnobservable := by
  intro s i pix hp hi hpix
  have h : SameBelowLength s { s with pix := pix } := ⟨rfl, hpix⟩
  have done (c : ErrCode) (data : BitVec 24) := h.complete c data
  have valid {ix : BitVec 32} (hv : s.indexValid ix = true) : ix.toNat < s.n.toNat := of_decide_eq_true hv
  suffices g : ∃ t t', exec i s = .next t ∧ exec i { s with pix := pix } = .next t' ∧ SameBelowLength t t' by
    exact g
  cases i with
  | create n =>
    exact ⟨_, _, rfl, rfl, rel_ite (fun _ => done _ _)
      fun hs => rel_ite (fun _ => done _ _) fun _ => h.create hi (not_not.1 hs) n⟩
  | setrgb ix r g b =>
    exact ⟨_, _, rfl, rfl, rel_ite (fun _ => done _ _)
      fun _ => rel_ite (fun hv => (h.setPixel (valid hv) _).complete ..) fun _ => done _ _⟩
  | setnamed ix name lum =>
    refine ⟨_, _, rfl, rfl, rel_ite (fun _ => done _ _) fun _ => rel_ite (fun hv => ?_) fun _ => done _ _⟩
    cases namedColor s.cfg name with
    | none => exact done _ _
    | some c => exact (h.setPixel (valid hv) _).complete ..
  | showFrame => exact ⟨_, _, rfl, rfl, rel_ite (fun _ => done _ _) fun _ => h.show⟩
  | getpix ix =>
    refine ⟨_, _, rfl, rfl, rel_ite (fun _ => done _ _) fun _ => rel_ite (fun hv => ?_) fun _ => done _ _⟩
    have hpixel : State.pixel { s with pix := pix } ix.toNat = s.pixel ix.toNat := by
      simp only [State.pixel, List.getD_eq_getElem?_getD, hpix _ (valid hv)]
    rw [hpixel]
    exact done _ _
  | destroy => exact ⟨_, _, rfl, rfl, rel_ite (fun _ => done _ _) fun _ => h.destroy⟩
  | chopen | map _ | ld _ _ | st _ _ _ | wait _ | unmap _ | chclose => cases hp

end Sys2Proof.Machine
end


section
/-! SUPPORT. The register windows of a legal layout (rules R63, R64, R101), and the micro-operations rule R71 and the
`require` lines of rules R122 to R128 do not admit. -/

namespace Sys2Proof.Machine

/-! ### The windows of a legal layout -/

/-- Rule R101, read window by window and register by register. -/
structure WindowLayout (m : RegMap) : Prop where
  base_aligned : ∀ w, m.base w % 4 = 0
  disjoint : ∀ w w', w ≠ w' → m.base w + m.blockSize ≤ m.base w' ∨ m.base w' + m.blockSize ≤ m.base w
  block_aligned : m.blockSize % 4 = 0
  index_inside : ∀ r : Reg, 4 * m.index r < m.blockSize

theorem Reg.mem_all (r : Reg) : r ∈ Reg.all := by cases r <;> decide

theorem RegMap.wf_windows {m : RegMap} (h : m.wf = true) : WindowLayout m := by
  simp only [RegMap.wf, RegMap.wfWindows, Bool.and_eq_true, Bool.or_eq_true, beq_iff_eq, decide_eq_true_eq,
    List.all_eq_true] at h
  obtain ⟨⟨⟨⟨⟨⟨⟨⟨⟨⟨⟨⟨hgpio, hpwm⟩, hclk⟩, hgp⟩, hgc⟩, hpc⟩, hblock⟩, -⟩, hin⟩, -⟩, -⟩, -⟩, -⟩ := h
  refine ⟨fun w => ?_, fun w w' hne => ?_, hblock, fun r => hin r (Reg.mem_all r)⟩
  · cases w with
    | gpio => exact hgpio
    | pwm => exact hpwm
    | clk => exact hclk
  · match w, w', hne with
    | .gpio, .gpio, hne | .pwm, .pwm, hne | .clk, .clk, hne => exact absurd rfl hne
    | .gpio, .pwm, _ => exact hgp
    | .pwm, .gpio, _ => exact hgp.symm
    | .gpio, .clk, _ => exact hgc
    | .clk, .gpio, _ => exact hgc.symm
    | .pwm, .clk, _ => exact hpc
    | .clk, .pwm, _ => exact hpc.symm

section
variable {m : RegMap} (h : WindowLayout m) (r : Reg)
include h

/-- A register's word ends inside its window: the block size is a multiple of 4 (rule R101). -/
theorem WindowLayout.addr_inside :
    m.base r.win ≤ m.addr r ∧ m.addr r + 4 ≤ m.base r.win + m.blockSize := by
  have hin := h.index_inside r
  have hblock := h.block_aligned
  simp only [RegMap.addr]
  omega

theorem WindowLayout.addr_aligned : m.addr r % 4 = 0 := by
  have hbase := h.base_aligned r.win
  simp only [RegMap.addr]
  omega

/-- An address lies in one window only. -/
theorem WindowLayout.win_eq_of_addr_eq {r r' : Reg} (ha : m.addr r = m.addr r') : r.win = r'.win := by
  by_contra hne
  have hr := h.addr_inside r
  have hr' := h.addr_inside r'
  have hdisjoint := h.disjoint _ _ hne
  omega

end

/-- In a legal layout an address names one register (rule R64, log entry 23). -/
theorem RegMap.addr_injective {m : RegMap} (h : m.wf = true) {r r' : Reg} (ha : m.addr r = m.addr r') : r = r' := by
  have hwin := (RegMap.wf_windows h).win_eq_of_addr_eq ha
  refine RegMap.index_injective h hwin ?_
  simp only [RegMap.addr, hwin] at ha
  omega

/-- Settles O50: alignment and bounds window by window, then the window and the index an address stands for. -/
theorem registerAddressesAreAlignedAndInside : Obligations.RegisterAddressesAreAlignedAndInside := by
  intro m hwf
  have h := RegMap.wf_windows hwf
  exact ⟨fun r => ⟨rfl, h.addr_aligned r, h.addr_inside r⟩, fun _ _ => RegMap.addr_injective hwf⟩

/-! ### Requests that are not admitted -/

/-- An index that is none of the window's registers is found to name no register (rule R71). -/
theorem RegMap.reg?_eq_none {m : RegMap} {w : Window} {ix : BitVec 16}
    (h : ∀ r : Reg, r.win = w → m.index r ≠ ix.toNat) : m.reg? w ix = none :=
  List.find?_eq_none.2 fun r _ => by
    simpa only [Bool.and_eq_true, beq_iff_eq, not_and] using h r

section
variable {s : State} {w : Window}

theorem exec_chopen_opened (hc : s.chan = .opened) : exec .chopen s = .fault .channelAlreadyOpen :=
  if_neg (by simp [hc])

theorem exec_map_closed (hc : s.chan = .closed) : exec (.map w) s = .fault .channelNotOpen :=
  if_pos (by simp [hc])

theorem exec_map_mapped (hc : s.chan = .opened) (hw : s.mapped.get w = true) :
    exec (.map w) s = .fault .windowAlreadyMapped :=
  (if_neg (not_not.2 hc)).trans (if_pos hw)

theorem exec_ld_unmapped (ix : BitVec 16) (hw : s.mapped.get w = false) :
    exec (.ld w ix) s = .fault .windowNotMapped :=
  if_pos hw

theorem exec_st_unmapped (ix : BitVec 16) (v : Word) (hw : s.mapped.get w = false) :
    exec (.st w ix v) s = .fault .windowNotMapped :=
  if_pos hw

theorem exec_unmap_unmapped (hw : s.mapped.get w = false) : exec (.unmap w) s = .fault .windowNotMapped :=
  if_neg (by simp [hw])

theorem exec_ld_noRegister {ix : BitVec 16} (hw : s.mapped.get w = true) (hr : s.cfg.regmap.reg? w ix = none) :
    exec (.ld w ix) s = .fault .noSuchRegister :=
  (if_neg (ne_false_of_eq_true hw)).trans (if_pos (Option.isNone_iff_eq_none.2 hr))

theorem exec_st_noRegister {ix : BitVec 16} (v : Word) (hw : s.mapped.get w = true)
    (hr : s.cfg.regmap.reg? w ix = none) : exec (.st w ix v) s = .fault .noSuchRegister :=
  (if_neg (ne_false_of_eq_true hw)).trans (if_pos (Option.isNone_iff_eq_none.2 hr))

theorem exec_chclose_closed (hc : s.chan = .closed) : exec .chclose s = .fault .channelNotOpen :=
  if_pos (by simp [hc])

theorem exec_chclose_held (hc : s.chan = .opened) (hw : s.mapped.get w = true) :
    exec .chclose s = .fault .handlesHeld :=
  (if_neg (not_not.2 hc)).trans
    (if_neg fun hm => ne_false_of_eq_true hw ((Mapped.eq_none_iff _).1 hm w))

end

/-- Settles O45: one lemma for each failed check. -/
theorem unadmittedRequestIsStuck : Obligations.UnadmittedRequestIsStuck := fun _ =>
  ⟨exec_chopen_opened,
   fun _ => exec_map_closed,
   fun _ => exec_map_mapped,
   fun _ ix v hw => ⟨exec_ld_unmapped ix hw, exec_st_unmapped ix v hw, exec_unmap_unmapped hw⟩,
   fun _ _ v hw hr =>
    ⟨exec_ld_noRegister hw (RegMap.reg?_eq_none hr), exec_st_noRegister v hw (RegMap.reg?_eq_none hr)⟩,
   exec_chclose_closed,
   fun _ => exec_chclose_held⟩

end Sys2Proof.Machine
end

section
/-! SUPPORT. Decoding and encoding (rules R90 to R96, R100): each undoes the other on both ports, and which command
words are legal, by their fields and by the match and mask table. -/

namespace Sys2Proof

/-! ### The parts of the field `A` (rules R91, R94) -/

section
variable (r g b name : BitVec 8) (lum : BitVec 16) (a : BitVec 24)

@[simp] theorem extractLsb'_channels_red : (r ++ g ++ b : BitVec 24).extractLsb' 16 8 = r :=
  (BitVec.extractLsb'_append_eq_of_le (by decide)).trans BitVec.extractLsb'_append_eq_left

@[simp] theorem extractLsb'_channels_green : (r ++ g ++ b : BitVec 24).extractLsb' 8 8 = g :=
  (BitVec.extractLsb'_append_eq_of_le (by decide)).trans BitVec.extractLsb'_append_eq_right

@[simp] theorem extractLsb'_channels_blue : (r ++ g ++ b : BitVec 24).extractLsb' 0 8 = b :=
  BitVec.extractLsb'_append_eq_right

@[simp] theorem extractLsb'_nameLum_name : (name ++ lum : BitVec 24).extractLsb' 16 8 = name :=
  BitVec.extractLsb'_append_eq_left

@[simp] theorem extractLsb'_nameLum_lum : (name ++ lum : BitVec 24).extractLsb' 0 16 = lum :=
  BitVec.extractLsb'_append_eq_right

theorem channels_append : (a.extractLsb' 16 8 ++ a.extractLsb' 8 8 ++ a.extractLsb' 0 8 : BitVec 24) = a := by
  have hred : a.extractLsb' 16 8 ++ a.extractLsb' 8 8 = a.extractLsb' 8 16 :=
    BitVec.extractLsb'_append_extractLsb'_eq_extractLsb' rfl
  rw [hred]
  exact BitVec.extractLsb'_append_extractLsb' (w := 16) (len := 8)

theorem nameLum_append : (a.extractLsb' 16 8 ++ a.extractLsb' 0 16 : BitVec 24) = a :=
  BitVec.extractLsb'_append_extractLsb' (w := 8) (len := 16)

end

/-! ### Decoding what was encoded -/

theorem decodeCmd_encode {i : Instr} (h : i.port = .cmd) : decodeCmd (encode i) = .ok i := by
  cases i with
  | create _ | setrgb _ _ _ _ | setnamed _ _ _ | showFrame | getpix _ | destroy => simp [decodeCmd, encode]
  | chopen | map _ | ld _ _ | st _ _ _ | wait _ | unmap _ | chclose => cases h

theorem decodeUop_encode (u : Uop) : decodeUop (encode u.toInstr) = .ok u := by
  cases u <;> simp [decodeUop, withWindow, encode, Uop.toInstr]

theorem Uop.toInstr_port (u : Uop) : u.toInstr.port = .uop := by cases u <;> rfl

/-- Every instruction of the UOP format is a bus event (rule R100). -/
theorem exists_uop_of_port {i : Instr} (h : i.port = .uop) : ∃ u : Uop, i = u.toInstr := by
  obtain hp | hu := Machine.port_cmd_or_toInstr i
  · cases hp.symm.trans h
  · exact hu

/-- Settles O2, port by port. -/
theorem encodedInstructionDecodesToItself : Obligations.EncodedInstructionDecodesToItself := by
  intro i
  cases hp : i.port with
  | cmd => exact decodeCmd_encode hp
  | uop =>
    obtain ⟨u, rfl⟩ := exists_uop_of_port hp
    exact congrArg (Except.map Uop.toInstr) (decodeUop_encode u)

/-- Settles O1: each word is evaluated. -/
theorem writtenOutWordsDecode : Obligations.WrittenOutWordsDecode :=
  ⟨by decide, by decide, by decide, by decide, by decide, by decide, by decide⟩

/-! ### Encoding what was decoded -/

/-- A decoder's check that was passed. -/
theorem of_ite_ok {α : Type} {c : Prop} [Decidable c] {x y : α} {e : DecodeError}
    (h : (if c then Except.ok x else .error e) = .ok y) : c ∧ x = y := by
  split at h <;> cases h
  exact ⟨‹c›, rfl⟩

theorem of_withWindow_ok {w : Record} {f : Window → Except DecodeError Uop} {u : Uop}
    (h : withWindow w f = .ok u) : ∃ win : Window, win.code = subField w ∧ f win = .ok u := by
  unfold withWindow at h
  split at h
  · exact ⟨_, code_of_windowOfCode ‹_›, h⟩
  · cases h

theorem encode_of_decodeCmd {w : Record} {i : Instr} (h : decodeCmd w = .ok i) : encode i = w := by
  unfold decodeCmd at h
  split at h
  · cases h
  next hr =>
  have hw := cmdWord_fields w (not_not.1 hr)
  split at h
  next hop =>
    obtain ⟨ha, rfl⟩ := of_ite_ok h
    rwa [ha, BitVec.eq_of_toNat_eq (y := 1#4) hop] at hw
  next hop =>
    cases h
    rw [encode, channels_append]
    rwa [BitVec.eq_of_toNat_eq (y := 2#4) hop] at hw
  next hop =>
    cases h
    rw [encode, nameLum_append]
    rwa [BitVec.eq_of_toNat_eq (y := 3#4) hop] at hw
  next hop =>
    obtain ⟨⟨ha, hi⟩, rfl⟩ := of_ite_ok h
    rwa [ha, hi, BitVec.eq_of_toNat_eq (y := 4#4) hop] at hw
  next hop =>
    obtain ⟨ha, rfl⟩ := of_ite_ok h
    rwa [ha, BitVec.eq_of_toNat_eq (y := 5#4) hop] at hw
  next hop =>
    obtain ⟨⟨ha, hi⟩, rfl⟩ := of_ite_ok h
    rwa [ha, hi, BitVec.eq_of_toNat_eq (y := 6#4) hop] at hw
  next => cases h

theorem encode_of_decodeUop {w : Record} {u : Uop} (h : decodeUop w = .ok u) : encode u.toInstr = w := by
  unfold decodeUop at h
  split at h
  · cases h
  next hr =>
  have hw := uopWord_fields w (not_not.1 hr)
  split at h
  next hop =>
    obtain ⟨⟨hs, hreg, hval⟩, rfl⟩ := of_ite_ok h
    rwa [hs, hreg, hval, BitVec.eq_of_toNat_eq (y := 1#4) hop] at hw
  next hop =>
    obtain ⟨win, hwin, hf⟩ := of_withWindow_ok h
    obtain ⟨⟨hreg, hval⟩, rfl⟩ := of_ite_ok hf
    rwa [← hwin, hreg, hval, BitVec.eq_of_toNat_eq (y := 2#4) hop] at hw
  next hop =>
    obtain ⟨win, hwin, hf⟩ := of_withWindow_ok h
    obtain ⟨hval, rfl⟩ := of_ite_ok hf
    rwa [← hwin, hval, BitVec.eq_of_toNat_eq (y := 3#4) hop] at hw
  next hop =>
    obtain ⟨win, hwin, hf⟩ := of_withWindow_ok h
    cases hf
    rwa [← hwin, BitVec.eq_of_toNat_eq (y := 4#4) hop] at hw
  next hop =>
    split at h
    next hzero =>
      obtain ⟨hs, hval⟩ := hzero
      split at h
      next ht =>
        cases h
        rwa [hs, hval, ← code_of_intervalOfCode ht, BitVec.eq_of_toNat_eq (y := 5#4) hop] at hw
      next => cases h
    next => cases h
  next hop =>
    obtain ⟨win, hwin, hf⟩ := of_withWindow_ok h
    obtain ⟨⟨hreg, hval⟩, rfl⟩ := of_ite_ok hf
    rwa [← hwin, hreg, hval, BitVec.eq_of_toNat_eq (y := 6#4) hop] at hw
  next hop =>
    obtain ⟨⟨hs, hreg, hval⟩, rfl⟩ := of_ite_ok h
    rwa [hs, hreg, hval, BitVec.eq_of_toNat_eq (y := 7#4) hop] at hw
  next => cases h

/-- Settles O3, port by port: each accepted word is put together from its fields, those that must be 0 included. -/
theorem decodedWordReencodesToItself : Obligations.DecodedWordReencodesToItself := by
  intro p w i h
  cases p with
  | cmd => exact ⟨Machine.decodeCmd_port h, encode_of_decodeCmd h⟩
  | uop =>
    cases hu : decodeUop w with
    | error e => simp [decodePort, hu, Except.map] at h
    | ok u =>
      obtain rfl : u.toInstr = i := by simpa [decodePort, hu, Except.map] using h
      exact ⟨u.toInstr_port, encode_of_decodeUop hu⟩

/-! ### Which command words are legal (rules R92, R95, R96) -/

/-- The fields of a legal command word (rules R92, R95). -/
def LegalFields (w : Record) : Prop :=
  subField w = 0#4 ∧
    ((opField w = 1#4 ∨ opField w = 5#4) ∧ aField w = 0#24 ∨
      opField w = 2#4 ∨ opField w = 3#4 ∨
      (opField w = 4#4 ∨ opField w = 6#4) ∧ aField w = 0#24 ∧ idxField w = 0#32)

theorem decodeCmd_ok_iff (w : Record) : (∃ i, decodeCmd w = .ok i) ↔ LegalFields w := by
  constructor
  · rintro ⟨i, h⟩
    rw [← encode_of_decodeCmd h]
    have hp := Machine.decodeCmd_port h
    cases i with
    | create _ | setrgb _ _ _ _ | setnamed _ _ _ | showFrame | getpix _ | destroy => simp [LegalFields, encode]
    | chopen | map _ | ld _ _ | st _ _ _ | wait _ | unmap _ | chclose => cases hp
  · rintro ⟨hs, ⟨hop | hop, ha⟩ | hop | hop | ⟨hop | hop, ha, hi⟩⟩ <;> simp [decodeCmd, *]

theorem decodeCmd_error_iff (w : Record) : (∃ e, decodeCmd w = .error e) ↔ ¬ LegalFields w := by
  rw [← decodeCmd_ok_iff]
  cases decodeCmd w <;> simp

/-- The mask of `OP`, `RSV` and the masked bits of `A` and `IDX` (rule R92). -/
def cmdMask (aMask : BitVec 24) (idxMask : BitVec 32) : Record :=
  BitVec.allOnes 4 ++ BitVec.allOnes 4 ++ aMask ++ idxMask

/-- All bits of a field that must be 0, none of one that may hold any value. -/
def zeroMask (n : Nat) (mustBeZero : Bool) : BitVec n := if mustBeZero then .allOnes n else 0#n

/-- A row of rule R92's table by its opcode, and whether `A` and `IDX` must be 0. -/
def fieldRow (op : BitVec 4) (aZero idxZero : Bool) : MaskRow :=
  ⟨cmdMask (zeroMask 24 aZero) (zeroMask 32 idxZero), cmdWord op 0#24 0#32⟩

theorem cmdRows_eq : cmdRows =
    [fieldRow 1#4 true false, fieldRow 2#4 false false, fieldRow 3#4 false false, fieldRow 4#4 true true,
     fieldRow 5#4 true false, fieldRow 6#4 true true] := by decide

theorem and_zeroMask_eq_zero {n : Nat} (x : BitVec n) (b : Bool) :
    x &&& zeroMask n b = 0#n ↔ (b = true → x = 0#n) := by
  cases b
  · simp [zeroMask]
  · rw [zeroMask, if_pos rfl, BitVec.and_allOnes, forall_prop_of_true rfl]

section
variable (aMask : BitVec 24) (idxMask : BitVec 32) (w : Record)

theorem opField_and_cmdMask : opField (w &&& cmdMask aMask idxMask) = opField w := by
  have h : opField (cmdMask aMask idxMask) = .allOnes 4 :=
    (BitVec.extractLsb'_append_eq_of_le (by decide)).trans <|
      (BitVec.extractLsb'_append_eq_of_le (by decide)).trans BitVec.extractLsb'_append_eq_left
  rw [opField, BitVec.extractLsb'_and]
  exact (congrArg (opField w &&& ·) h).trans BitVec.and_allOnes

theorem subField_and_cmdMask : subField (w &&& cmdMask aMask idxMask) = subField w := by
  have h : subField (cmdMask aMask idxMask) = .allOnes 4 :=
    (BitVec.extractLsb'_append_eq_of_le (by decide)).trans <|
      (BitVec.extractLsb'_append_eq_of_le (by decide)).trans BitVec.extractLsb'_append_eq_right
  rw [subField, BitVec.extractLsb'_and]
  exact (congrArg (subField w &&& ·) h).trans BitVec.and_allOnes

theorem aField_and_cmdMask : aField (w &&& cmdMask aMask idxMask) = aField w &&& aMask := by
  have h : aField (cmdMask aMask idxMask) = aMask :=
    (BitVec.extractLsb'_append_eq_of_le (by decide)).trans BitVec.extractLsb'_append_eq_right
  rw [aField, BitVec.extractLsb'_and]
  exact congrArg (aField w &&& ·) h

theorem idxField_and_cmdMask : idxField (w &&& cmdMask aMask idxMask) = idxField w &&& idxMask := by
  rw [idxField, BitVec.extractLsb'_and]
  exact congrArg (idxField w &&& ·) BitVec.extractLsb'_append_eq_right

end

/-- What a row of the table asks of a word, field by field (rule R92). -/
theorem fieldRow_selects (op : BitVec 4) (aZero idxZero : Bool) (w : Record) :
    (fieldRow op aZero idxZero).selects w = true ↔
      opField w = op ∧ subField w = 0#4 ∧ (aZero = true → aField w = 0#24) ∧
        (idxZero = true → idxField w = 0#32) := by
  have hop := opField_and_cmdMask (zeroMask 24 aZero) (zeroMask 32 idxZero) w
  have hs := subField_and_cmdMask (zeroMask 24 aZero) (zeroMask 32 idxZero) w
  have ha := aField_and_cmdMask (zeroMask 24 aZero) (zeroMask 32 idxZero) w
  have hi := idxField_and_cmdMask (zeroMask 24 aZero) (zeroMask 32 idxZero) w
  rw [MaskRow.selects, beq_iff_eq, fieldRow, ← and_zeroMask_eq_zero, ← and_zeroMask_eq_zero, ← ha, ← hi, ← hs]
  constructor
  · intro h
    rw [← hop, h]
    simp
  · rintro ⟨rfl, hs0, ha0, hi0⟩
    rw [← cmdWord_fields _ hs0, hop, ha0, hi0]

/-- A word that a row of the table selects is legal (rule R96). -/
theorem LegalFields.of_selects {r : MaskRow} {w : Record} (hr : r ∈ cmdRows) (h : r.selects w = true) :
    LegalFields w := by
  simp only [cmdRows_eq, List.mem_cons, List.not_mem_nil, or_false] at hr
  obtain rfl | rfl | rfl | rfl | rfl | rfl := hr
  all_goals
    rw [fieldRow_selects] at h
    simp_all [LegalFields]

/-- The word of a command selects its own row and no other (rule R96). -/
theorem selects_encode {i : Instr} (h : i.port = .cmd) :
    (cmdRows.filter fun r => r.selects (encode i)).length = 1 := by
  cases i with
  | create _ | setrgb _ _ _ _ | setnamed _ _ _ | showFrame | getpix _ | destroy =>
    simp [cmdRows_eq, fieldRow_selects, encode]
  | chopen | map _ | ld _ _ | st _ _ _ | wait _ | unmap _ | chclose => cases h

/-- Settles O4: a legal word is the word of a command, which selects its own row only; a selected word is legal. -/
theorem legalCommandMatchesExactlyOneRow : Obligations.LegalCommandMatchesExactlyOneRow := by
  intro w
  by_cases hl : LegalFields w
  · obtain ⟨i, hi⟩ := (decodeCmd_ok_iff w).2 hl
    refine .inl ⟨⟨i, hi⟩, ?_⟩
    rw [← encode_of_decodeCmd hi]
    exact selects_encode (Machine.decodeCmd_port hi)
  · refine .inr ⟨(decodeCmd_error_iff w).2 hl, ?_⟩
    rw [List.length_eq_zero_iff, List.filter_eq_nil_iff]
    exact fun r hr hs => hl (.of_selects hr hs)

end Sys2Proof
end

section
/-! SUPPORT. The assembler's operands (rule R99): which written numbers have a field, and that the word of a written
command decodes to it. -/

namespace Sys2Proof

theorem assembleInstr_port {c : Source} {i : Instr} (h : assembleInstr c = some i) : i.port = .cmd := by
  cases c with
  | create n | getpix n =>
    obtain ⟨x, -, rfl⟩ := Option.map_eq_some_iff.1 h
    rfl
  | setrgb _ _ _ _ | setnamed _ _ _ =>
    simp only [assembleInstr] at h
    split at h <;> cases h
    rfl
  | showFrame | destroy =>
    cases h
    rfl

/-- The word of a written command decodes to that command. -/
theorem decodeCmd_assemble {c : Source} {i : Instr} (h : assembleInstr c = some i) :
    (assemble c).map decodeCmd = some (.ok i) := by
  simp only [assemble, h, Option.map_some, decodeCmd_encode (assembleInstr_port h)]

theorem assemble_eq_none {c : Source} (h : assembleInstr c = none) : assemble c = none := by
  rw [assemble, h, Option.map_none]

theorem assembleIndex_inside {i : Int} (hlo : -2147483648 ≤ i) (hhi : i < 4294967296) :
    assembleIndex i = some (BitVec.ofInt 32 i) := if_pos ⟨hlo, hhi⟩

theorem assembleIndex_outside {i : Int} (h : i < -2147483648 ∨ 4294967296 ≤ i) : assembleIndex i = none :=
  if_neg (by omega)

theorem assembleField_toNat {n : Nat} (x : BitVec n) : assembleField n x.toNat = some x := by
  simp [assembleField, x.isLt]

theorem assembleField_outside {n v : Nat} (h : 2 ^ n ≤ v) : assembleField n v = none := if_neg (by omega)

/-- A written integer stands in `IDX` modulo `2^32`. -/
theorem toNat_ofInt_index (i : Int) : ((BitVec.ofInt 32 i).toNat : Int) = i % 4294967296 := by
  rw [BitVec.toNat_ofInt]
  exact Int.toNat_of_nonneg (Int.emod_nonneg i (by decide))

/-- SETRGB with an operand outside its range has no word. -/
theorem assembleInstr_setrgb_none {i : Int} {r g b : Nat}
    (h : assembleIndex i = none ∨ assembleField 8 r = none ∨ assembleField 8 g = none ∨
      assembleField 8 b = none) :
    assembleInstr (.setrgb i r g b) = none := by
  simp only [assembleInstr]
  split
  · simp_all
  · rfl

/-- SETNAMED with an operand outside its range has no word. -/
theorem assembleInstr_setnamed_none {i : Int} {name lum : Nat}
    (h : assembleIndex i = none ∨ assembleField 8 name = none ∨ assembleField 16 lum = none) :
    assembleInstr (.setnamed i name lum) = none := by
  simp only [assembleInstr]
  split
  · simp_all
  · rfl

/-- Settles O6: the index is the integer modulo `2^32`, an operand outside its range stops the assembler, and what it
gives is the word of a command. -/
theorem writtenIntegersWrapIntoTheIndexField : Obligations.WrittenIntegersWrapIntoTheIndexField := by
  refine ⟨fun i hlo hhi => ?_, fun i r g b name lum hi => ?_, fun i r g b h => ?_, fun i name lum h => ?_,
    fun c w h => ?_⟩
  · have hix := assembleIndex_inside hlo hhi
    have hmod := toNat_ofInt_index i
    refine ⟨BitVec.ofInt 32 i, hmod, fun hneg => by omega, decodeCmd_assemble ?_, decodeCmd_assemble ?_,
      fun r g b => decodeCmd_assemble ?_, fun name lum => decodeCmd_assemble ?_⟩ <;>
      simp [assembleInstr, hix, assembleField_toNat]
  · have hix := assembleIndex_outside hi
    exact ⟨assemble_eq_none (by simp [assembleInstr, hix]), assemble_eq_none (by simp [assembleInstr, hix]),
      assemble_eq_none (assembleInstr_setrgb_none (.inl hix)),
      assemble_eq_none (assembleInstr_setnamed_none (.inl hix))⟩
  · exact assemble_eq_none (assembleInstr_setrgb_none
      (.inr (h.imp assembleField_outside (.imp assembleField_outside assembleField_outside))))
  · exact assemble_eq_none (assembleInstr_setnamed_none
      (.inr (h.imp assembleField_outside assembleField_outside)))
  · obtain ⟨i, hi, rfl⟩ := Option.map_eq_some_iff.1 h
    exact ⟨i, decodeCmd_encode (assembleInstr_port hi), hi⟩

end Sys2Proof
end

section
/-! SUPPORT. Words at the machine: the illegal word (rule R95), where the word of a table row runs (rules R90, R100),
operands that read as negative (rule R93), and the response of a command (rules R97, R266). -/

namespace Sys2Proof.Machine

/-! ### The illegal word (rule R95) -/

theorem opcode_cases (op : BitVec 4) :
    op = 0#4 ∨ 7 ≤ op.toNat ∨ op = 1#4 ∨ op = 2#4 ∨ op = 3#4 ∨ op = 4#4 ∨ op = 5#4 ∨ op = 6#4 := by
  revert op; decide

/-- Which words are illegal, as rule R95 lists them. -/
theorem not_legalFields_iff (w : Record) : ¬ LegalFields w ↔
    (opField w = 0#4 ∨ 7 ≤ (opField w).toNat ∨ subField w ≠ 0#4 ∨
      ((opField w = 1#4 ∨ opField w = 5#4) ∧ aField w ≠ 0#24) ∨
      ((opField w = 4#4 ∨ opField w = 6#4) ∧ (aField w ≠ 0#24 ∨ idxField w ≠ 0#32))) := by
  by_cases hs : subField w = 0#4
  · obtain h | h | h | h | h | h | h | h := opcode_cases (opField w)
    case inr.inl =>
      have hne : ∀ k : BitVec 4, k.toNat < 7 → opField w ≠ k := fun k hk he => by rw [he] at h; omega
      simp [LegalFields, h, hne]
    all_goals simp [LegalFields, h, hs, imp_iff_not_or]
  · simp [LegalFields, hs]

/-- Settles O5: the words whose fields are not legal; and the step of an illegal word is `raise` after the serializer's
periods. -/
theorem illegalWordRaisesIllegalCommand : Obligations.IllegalWordRaisesIllegalCommand := by
  refine ⟨fun w => (decodeCmd_error_iff w).trans (not_legalFields_iff w), fun s w rest e hseq hrun hport hw => ?_⟩
  rw [step_illegal (by rw [hseq]; rfl) hport hw]
  simp only [State.raise, State.complete, State.elapse, hseq, hrun]
  rfl

/-! ### Where the word of a table row runs (rules R90, R100, log entry 3) -/

theorem decodeTableWord_cases {nbits w : Nat} {i : Instr} (h : decodeTableWord nbits w = some i) :
    (∃ u, decodeUop (tableRecord nbits w) = .ok u ∧ i = u.toInstr) ∨
    (∃ e, decodeUop (tableRecord nbits w) = .error e) ∧ decodeCmd (tableRecord nbits w) = .ok i := by
  unfold decodeTableWord at h
  split at h
  next hu => cases h; exact .inl ⟨_, hu, rfl⟩
  next hu =>
    split at h
    next hc => cases h; exact .inr ⟨⟨_, hu⟩, hc⟩
    next => cases h

/-- A placed bus event is the entry the next step runs. -/
theorem step_placeUop (s : State) (u : Uop) : step (s.placeUop u) = exec u.toInstr (s.placeUop u) := by
  have hplace : (s.placeUop u).seq = ⟨.create, 0⟩ ∧ (s.placeUop u).run.prog = [.bus u] := by
    cases u <;> exact ⟨rfl, rfl⟩
  obtain ⟨hseq, hprog⟩ := hplace
  exact step_runs_entry (m := .bus u) (by rw [hseq]; nofun) (by rw [hseq, hprog]; rfl)

/-- A placed bus event finds nothing but the channel, the handles and the sequencer changed. -/
theorem State.placeUop_sameHostState (s : State) (u : Uop) : SameHostState s (s.placeUop u) := by
  cases u <;> constructor <;> rfl

/-- A placed bus event finds the channel and the handles as it needs them (rule R71). -/
theorem placeUop_admitted (s : State) {u : Uop} (h : u.toInstr.wf s.cfg.regmap = true) :
    ∃ h', handlesAfter s.cfg.regmap (s.placeUop u).handles u = some h' := by
  cases u with
  | chopen => exact ⟨(.opened, s.mapped), rfl⟩
  | map w => exact ⟨_, if_pos ⟨rfl, by simp [State.placeUop, State.handles]⟩⟩
  | ld w ix | st w ix v => exact ⟨_, if_pos ⟨by simp [State.placeUop, State.handles], h⟩⟩
  | wait t => exact ⟨_, rfl⟩
  | unmap w => exact ⟨_, if_pos (by simp [State.placeUop, State.handles])⟩
  | chclose => exact ⟨(.closed, Mapped.none), rfl⟩

/-- Settles O8: a bus event is placed as the sequencer's entry, a command on the port. -/
theorem placedTableWordRunsNext : Obligations.PlacedTableWordRunsNext := by
  intro s nbits w i h
  obtain ⟨u, hu, rfl⟩ | ⟨⟨e, he⟩, hc⟩ := decodeTableWord_cases h
  · have hplace : s.withFetchWord nbits w = s.placeUop u := by
      simp only [State.withFetchWord, State.placeTableWord, hu]
    have hsame := s.placeUop_sameHostState u
    refine ⟨s.placeUop u, by rw [hplace, step_placeUop], hsame.cfg, hsame.pix, hsame.n, hsame.inst, hsame.err,
      hsame.wave, hsame.q, by cases u <;> rfl, by cases u <;> rfl, hsame.cmdPort, hsame.rsp, ?_, fun hwf => ?_⟩
    · exact fun hp => absurd (hp.symm.trans u.toInstr_port) nofun
    · obtain ⟨h', hadm⟩ := placeUop_admitted s hwf
      rw [← hsame.cfg] at hadm
      exact ⟨_, exec_of_handlesAfter hadm⟩
  · have hplace : s.withFetchWord nbits w = s.placeCommand (tableRecord nbits w) := by
      simp only [State.withFetchWord, State.placeTableWord, he]
    refine ⟨{ (s.placeCommand (tableRecord nbits w)).elapse with cmdPort := s.cmdPort }, ?_, rfl, rfl, rfl, rfl,
      rfl, rfl, rfl, rfl, rfl, rfl, rfl, fun _ => ⟨rfl, rfl⟩, fun _ => ?_⟩
    · rw [hplace]
      exact step_runs rfl rfl hc
    · obtain ⟨t, ht, -⟩ := exec_command i _ (decodeCmd_port hc)
      exact ⟨t, ht⟩

/-! ### Failed checks -/

section
variable {s : State}

theorem whenAddressable_notReady (ix : BitVec 32) (body : State) (hs : s.inst ≠ .ready) :
    s.whenAddressable ix body = s.raise .state := if_pos hs

theorem whenAddressable_outside {ix : BitVec 32} (body : State) (hs : s.inst = .ready)
    (hix : ¬ ix.toNat < s.n.toNat) : s.whenAddressable ix body = s.raise .index :=
  (if_neg (not_not.2 hs)).trans (if_neg (by simpa [State.indexValid] using hix))

theorem whenAddressable_inside {ix : BitVec 32} (body : State) (hs : s.inst = .ready)
    (hix : ix.toNat < s.n.toNat) : s.whenAddressable ix body = body :=
  (if_neg (not_not.2 hs)).trans (if_pos (by simpa [State.indexValid] using hix))

theorem exec_create_oversized {n : BitVec 32} (hs : s.inst = .unconfigured) (hn : s.cfg.capacity < n.toNat) :
    exec (.create n) s = .next (s.raise .configuration) :=
  congrArg _ ((if_neg (not_not.2 hs)).trans (if_pos hn))

/-- The three indexed commands share the index check (rule R172). -/
theorem exec_indexed_outside {ix : BitVec 32} {i : Instr} (hi : i = .getpix ix ∨ (∃ r g b, i = .setrgb ix r g b) ∨
    (∃ name lum, i = .setnamed ix name lum)) (hs : s.inst = .ready) (hix : ¬ ix.toNat < s.n.toNat) :
    exec i s = .next (s.raise .index) := by
  obtain rfl | ⟨r, g, b, rfl⟩ | ⟨name, lum, rfl⟩ := hi
  all_goals exact congrArg _ (whenAddressable_outside _ hs hix)

/-- The capacity is a number of 31 bits (rules R7, R93). -/
theorem Inv.capacity_lt (h : Inv s) : s.cfg.capacity < 2147483648 := by
  have hwf := h.cfg
  simp only [Params.wf, Bool.and_eq_true, decide_eq_true_eq] at hwf
  obtain ⟨⟨⟨⟨⟨⟨-, hcap⟩, -⟩, -⟩, -⟩, -⟩, -⟩ := hwf
  omega

end

/-- Settles O24: such an operand is above the capacity, and `N` is not. -/
theorem negativeOperandFailsTheSameCheck : Obligations.NegativeOperandFailsTheSameCheck := by
  intro s x hi hx
  have hlarge : 2147483648 ≤ x.toNat := by
    have := BitVec.toInt_neg_iff.1 hx
    omega
  have hcap := hi.capacity_lt
  have hn := hi.n_le
  exact ⟨hlarge, by omega, by omega, fun hs => ⟨_, exec_create_oversized hs (by omega), rfl⟩,
    fun hs i hform => ⟨_, exec_indexed_outside hform hs (by omega), rfl, rfl⟩⟩

/-! ### The response of a command (rules R97, R266) -/

/-- `t` has one response more than `s`, of the code `c` that `ERR` holds, with `data` (rule R97). -/
structure Responds (s t : State) (c : ErrCode) (data : BitVec 24) : Prop where
  rsp : t.rsp = s.rsp ++ [rspWord c data]
  err : t.err = c.bits

theorem responds_complete (s : State) (c : ErrCode) (data : BitVec 24) : Responds s (s.complete c data) c data :=
  ⟨rfl, rfl⟩

/-- Every command but GETPIX responds with the data 0. -/
theorem CommandOutcome.responds {s t : State} {i : Instr} (h : CommandOutcome s i t) (hi : Inv s)
    (hget : ∀ ix, i ≠ .getpix ix) : ∃ c, Responds s t c 0#24 := by
  cases h with
  | raised _ c => exact ⟨c, responds_complete s c _⟩
  | painted _ _ _ _ _ _ => exact ⟨.success, rfl, rfl⟩
  | answered ix _ _ => exact absurd rfl (hget ix)
  | shown _ => rw [acceptShow_run]; exact ⟨.success, rfl, rfl⟩
  | destroyed _ => rw [acceptDestroy_run]; exact ⟨.success, rfl, rfl⟩
  | created n hs hn =>
    obtain ⟨-, hm, hc⟩ := hi.unconfigured hs
    obtain hg | ⟨k, hk, hg, hd⟩ := s.grants_cases
    · rw [acceptCreate_granted s n hc hg]; exact ⟨.success, rfl, rfl⟩
    · rw [acceptCreate_denied s n k hc hm hk hg hd]; exact ⟨.hardwareAccess, rfl, rfl⟩

/-- GETPIX responds with an error and 0, or with the pixel (rules R172, R174, R181). -/
theorem exec_getpix_responds (s : State) (ix : BitVec 32) : ∃ t, exec (.getpix ix) s = .next t ∧
    ((∃ c, c ≠ .success ∧ Responds s t c 0#24) ∨ Responds s t .success (colorData (s.pixel ix.toNat))) := by
  refine ⟨_, rfl, ?_⟩
  by_cases hs : s.inst = .ready
  · by_cases hix : ix.toNat < s.n.toNat
    · rw [whenAddressable_inside _ hs hix]
      exact .inr (responds_complete s _ _)
    · rw [whenAddressable_outside _ hs hix]
      exact .inl ⟨.index, nofun, responds_complete s _ _⟩
  · rw [whenAddressable_notReady ix _ hs]
    exact .inl ⟨.state, nofun, responds_complete s _ _⟩

section
variable (c : ErrCode) (data : BitVec 24)

theorem rspWord_err : (rspWord c data).extractLsb' 28 4 = c.bits :=
  (BitVec.extractLsb'_append_eq_of_le (by decide)).trans BitVec.extractLsb'_append_eq_left

theorem rspWord_reserved : (rspWord c data).extractLsb' 24 4 = 0#4 :=
  (BitVec.extractLsb'_append_eq_of_le (by decide)).trans BitVec.extractLsb'_append_eq_right

theorem rspWord_data : (rspWord c data).extractLsb' 0 24 = data := BitVec.extractLsb'_append_eq_right

theorem ErrCode.bits_le : c.bits.toNat ≤ 5 := by cases c <;> decide

theorem ErrCode.eq_success_of_bits (h : c.bits = 0#4) : c = .success := by revert h; cases c <;> decide

/-- The response of a success carries 0 in bits 31:24. -/
theorem rspWord_success (x : Color) : rspWord .success (colorData x) = 0#8 ++ x.r ++ x.g ++ x.b := by
  show 0#8 ++ (x.r ++ x.g ++ x.b) = 0#8 ++ x.r ++ x.g ++ x.b
  rw [BitVec.append_assoc, BitVec.append_assoc, BitVec.append_assoc]
  rfl

variable {c data} {s t : State} (h : Responds s t c data)
include h

theorem Responds.err_field : (rspWord c data).extractLsb' 28 4 = t.err := by rw [rspWord_err, h.err]

theorem Responds.err_le : t.err.toNat ≤ 5 := by rw [h.err]; exact c.bits_le

end

/-- Settles O53: every command but GETPIX responds with the data 0, GETPIX with the pixel when it succeeds. -/
theorem everyCommandGivesOneResponse : Obligations.EveryCommandGivesOneResponse := by
  intro s i hi hp
  by_cases hget : ∃ ix, i = .getpix ix
  · obtain ⟨ix, rfl⟩ := hget
    obtain ⟨t, ht, ⟨c, hne, h⟩ | h⟩ := exec_getpix_responds s ix
    · have hfailed : t.err ≠ 0#4 := fun h0 => hne (c.eq_success_of_bits (h.err.symm.trans h0))
      exact ⟨t, _, ht, h.rsp, h.err_field, h.err_le, rspWord_reserved .., fun hd => absurd (rspWord_data ..) hd,
        fun _ _ _ h0 => absurd h0 hfailed⟩
    · refine ⟨t, _, ht, h.rsp, h.err_field, h.err_le, rspWord_reserved .., fun _ => ⟨h.err, ix, rfl⟩,
        fun ix' x hix _ hx => ?_⟩
      cases hix
      rw [State.pixel, List.getD_eq_getElem?_getD, hx, Option.getD_some, rspWord_success]
  · rw [not_exists] at hget
    obtain ⟨t, ht, ho⟩ := exec_command i s hp
    obtain ⟨c, h⟩ := ho.responds hi hget
    exact ⟨t, _, ht, h.rsp, h.err_field, h.err_le, rspWord_reserved .., fun hd => absurd (rspWord_data ..) hd,
      fun ix _ h' => absurd h' (hget ix)⟩

end Sys2Proof.Machine
end

section
/-! SUPPORT. The register-access micro-operations (rules R121 to R128): the next state of each where it is admitted, and
what none of them writes. -/

namespace Sys2Proof.Machine

/-! ### The records of the micro-operations without a parameter, and of `MAP` (rule R100) -/

theorem encode_chopen : encode .chopen = 0x1000000000000000#64 := by decide

theorem encode_chclose : encode .chclose = 0x7000000000000000#64 := by decide

theorem encode_wait_settle : encode (.wait .settle) = 0x5000000100000000#64 := by decide

theorem encode_wait_fifoGap : encode (.wait .fifoGap) = 0x5000000200000000#64 := by decide

theorem encode_map_gpio : encode (.map .gpio) = 0x2100000000000000#64 := by decide

theorem encode_map_pwm : encode (.map .pwm) = 0x2200000000000000#64 := by decide

theorem encode_map_clk : encode (.map .clk) = 0x2300000000000000#64 := by decide

/-! ### The admitted micro-operation has its effect -/

/-- `WAIT` is admitted in every state. -/
theorem exec_wait (s : State) (t : Interval) : exec (.wait t) s = .next (s.afterUop (encode (.wait t)) s.dev) :=
  exec_of_handlesAfter (u := .wait t) rfl

section
variable {s : State}

theorem exec_chopen_closed (hc : s.chan = .closed) : exec .chopen s = .next s.doChopen :=
  exec_of_handlesAfter (u := .chopen) (if_pos hc)

theorem exec_map_unmapped {w : Window} (hc : s.chan = .opened) (hw : s.mapped.get w = false) :
    exec (.map w) s = .next (s.doMap w) :=
  exec_of_handlesAfter (u := .map w) (if_pos ⟨hc, hw⟩)

theorem exec_unmap_mapped {w : Window} (hw : s.mapped.get w = true) : exec (.unmap w) s = .next (s.doUnmap w) :=
  exec_of_handlesAfter (u := .unmap w) (if_pos hw)

theorem exec_chclose_none (hc : s.chan = .opened) (hm : s.mapped = Mapped.none) :
    exec .chclose s = .next s.doChclose :=
  exec_of_handlesAfter (u := .chclose) (if_pos ⟨hc, hm⟩)

variable {r : Reg} (hwf : s.cfg.regmap.wf = true) (hw : s.mapped.get r.win = true)
include hwf hw

theorem exec_ld_regField :
    exec (.ld r.win (s.cfg.regmap.regField r)) s = .next (s.doLd r.win (s.cfg.regmap.regField r)) :=
  exec_of_handlesAfter (u := .ld ..) (if_pos ⟨hw, Option.isSome_of_eq_some (RegMap.reg?_regField hwf r)⟩)

theorem exec_st_regField (v : Word) :
    exec (.st r.win (s.cfg.regmap.regField r) v) s = .next (s.doSt r.win (s.cfg.regmap.regField r) v) :=
  exec_of_handlesAfter (u := .st ..) (if_pos ⟨hw, Option.isSome_of_eq_some (RegMap.reg?_regField hwf r)⟩)

end

/-! ### The channel and the handles -/

/-- Settles O38: the granted and the denied `CHOPEN`. -/
theorem chopenOpensChannelWhenGranted : Obligations.ChopenOpensChannelWhenGranted := by
  intro s hc
  rw [exec_chopen_closed hc, ← encode_chopen]
  cases hg : s.grantAt 0 with
  | true => rw [State.doChopen_granted s hg, if_pos rfl]
  | false => rw [State.doChopen_denied s hg, if_neg Bool.false_ne_true]

/-- Settles O39: the granted `MAP` sets its own handle, the denied one none; the record is that of the window. -/
theorem mapEstablishesHandleWhenGranted : Obligations.MapEstablishesHandleWhenGranted := by
  intro s w hc hw
  have hexec := exec_map_unmapped hc hw
  refine ⟨encode (.map w), ?_, ?_, ?_, fun hg => ?_, fun hg => ?_⟩
  · rintro rfl; exact encode_map_gpio
  · rintro rfl; exact encode_map_pwm
  · rintro rfl; exact encode_map_clk
  · rw [State.doMap_granted s w hg] at hexec
    exact ⟨_, hexec, rfl, fun w' => Mapped.get_set s.mapped w w' true⟩
  · rw [hexec, State.doMap_denied s w hg]

/-- Settles O43: `UNMAP` clears its own handle, and no handle held is what `CHCLOSE` requires. -/
theorem unmapAndChcloseRelease : Obligations.UnmapAndChcloseRelease := by
  refine ⟨fun s w hw => ?_, fun s hc hnone => ?_⟩
  · have hexec := exec_unmap_mapped hw
    rw [State.doUnmap_eq] at hexec
    exact ⟨_, hexec, rfl, fun w' => Mapped.get_set s.mapped w w' false⟩
  · rw [exec_chclose_none hc ((Mapped.eq_none_iff _).2 hnone), State.doChclose_eq, encode_chclose]

/-! ### Registers and waits -/

/-- Settles O40: in a legal layout the register is found, so the load is admitted, and the latch takes the answer. -/
theorem ldReturnsEnvironmentsAnswer : Obligations.LdReturnsEnvironmentsAnswer := by
  intro s r hwf hw
  obtain ⟨hmap, -⟩ := Params.wf_layout hwf
  rw [exec_ld_regField hmap hw, State.doLd_eq]
  rfl

/-- Settles O41: in a legal layout the register found at the store's window and index is the register stored to. -/
theorem stReachesItsDevice : Obligations.StReachesItsDevice := by
  intro s r v hwf hw
  obtain ⟨hmap, -⟩ := Params.wf_layout hwf
  rw [exec_st_regField hmap hw, State.doSt_eq, storeUop_reg hmap]

/-- Settles O42: the record of each interval, and the devices as they are. -/
theorem waitIsAnEventAlone : Obligations.WaitIsAnEventAlone := by
  intro s
  rw [← encode_wait_settle, ← encode_wait_fifoGap]
  exact ⟨exec_wait s .settle, exec_wait s .fifoGap⟩

/-! ### What no micro-operation writes -/

/-- A bus event keeps the sequencer's program and code, or it is a denied acquisition (rules R31, R120, R150). -/
theorem State.doUop_run_cases (s : State) (u : Uop) :
    (s.doUop u).run = s.run ∨
    (s.doUop u).run = s.afterDenial.run ∧ acquires u = true ∧ s.grantAt 0 = false := by
  cases ha : acquires u with
  | true =>
    rw [State.doUop_acquire s ha]
    cases hg : s.grantAnswer with
    | true => exact .inl (s.granted_run u)
    | false => exact .inr ⟨rfl, rfl, hg⟩
  | false =>
    cases u with
    | chopen | map _ => cases ha
    | ld _ _ | st _ _ _ | wait _ | unmap _ | chclose => exact .inl rfl

/-- The acquisitions are `CHOPEN` and `MAP`. -/
theorem toInstr_of_acquires {u : Uop} (h : acquires u = true) : u.toInstr = .chopen ∨ ∃ w, u.toInstr = .map w := by
  cases u with
  | chopen => exact .inl rfl
  | map w => exact .inr ⟨w, rfl⟩
  | ld _ _ | st _ _ _ | wait _ | unmap _ | chclose => cases h

/-- Settles O44: a bus event keeps what the host can read, and only a denied acquisition writes the code. -/
theorem microOperationsKeepHostState : Obligations.MicroOperationsKeepHostState := by
  intro i s t hp h
  obtain hcmd | ⟨u, rfl⟩ := port_cmd_or_toInstr i
  · exact absurd (hcmd.symm.trans hp) nofun
  · obtain ⟨-, rfl⟩ := exec_toInstr_next h
    have hsame := s.doUop_sameHostState u
    refine ⟨hsame.err, hsame.pix, hsame.n, hsame.wave, hsame.q, hsame.rsp, hsame.inst, hsame.cmdPort, ?_⟩
    obtain hrun | ⟨hrun, ha, hg⟩ := s.doUop_run_cases u
    · exact .inl (congrArg Run.code hrun)
    · exact .inr ⟨congrArg Run.code hrun, toInstr_of_acquires ha, hg⟩

end Sys2Proof.Machine
end

section
/-! SUPPORT. The commands of the life cycle (rules R141, R146, R150, R152, R159, R160): the next states of CREATE and
DESTROY, what stores outside the queue can do to the queue and the line, and the divisor fraction. -/

namespace Sys2Proof.Machine

/-! ### What happens to the queue and the line where nothing is queued -/

/-- Between `d` and `e` words were only taken from the head of the queue, or all of them dropped, and the line only
grew. -/
structure Drains (d e : Devices) : Prop where
  queue : e.queue <:+ d.queue
  line : d.line <+: e.line

theorem Drains.refl (d : Devices) : Drains d d := ⟨List.suffix_rfl, List.prefix_rfl⟩

theorem Drains.trans {d e f : Devices} (h : Drains d e) (g : Drains e f) : Drains d f :=
  ⟨g.queue.trans h.queue, h.line.trans g.line⟩

theorem Devices.sendBit_drains (p : Params) (v : Word) (d : Devices) : Drains d (d.sendBit p v) := by
  unfold Devices.sendBit
  split
  · exact ⟨List.suffix_rfl, List.prefix_append _ _⟩
  · exact ⟨List.suffix_rfl, List.prefix_rfl⟩

theorem Devices.sendIdle_drains (p : Params) (d : Devices) : Drains d (d.sendIdle p) := by
  unfold Devices.sendIdle
  split
  · have hrewind : Drains d { d with pos := 0 } := ⟨List.suffix_rfl, List.prefix_rfl⟩
    exact hrewind.trans (sendBit_drains ..)
  · exact ⟨List.suffix_rfl, List.prefix_append _ _⟩

theorem Devices.tick_drains (p : Params) (d : Devices) : Drains d (d.tick p) := by
  unfold Devices.tick
  split
  · split
    next => exact sendBit_drains p _ d
    next v rest hq _ =>
      have htake : Drains d { d with shift := some v, pos := 0, queue := rest } :=
        ⟨hq ▸ List.suffix_cons v rest, List.prefix_rfl⟩
      exact htake.trans (sendBit_drains ..)
    next => exact sendIdle_drains p d
  · exact .refl d

theorem Devices.serialize_drains (p : Params) (k : Nat) (d : Devices) : Drains d (d.serialize p k) := by
  induction k generalizing d with
  | zero => exact .refl d
  | succ k ih => exact (tick_drains p d).trans (ih _)

/-- Only a store to the queue's own register puts a word there (rules R243, R244). -/
theorem Devices.store_drains {r : Reg} (hr : r ≠ .fifo) (p : Params) (v : Word) (k : Nat) (d : Devices) :
    Drains d (d.store p r v k) := by
  constructor
  · obtain hq | hq | ⟨hf, -⟩ := store_queue p r v k d
    · rw [hq]
    · rw [hq]; exact List.nil_suffix
    · exact absurd hf hr
  · cases r with
    | ctl =>
      simp only [Devices.store, Devices.storeCtl]
      split
      · exact List.prefix_append _ _
      · exact List.prefix_rfl
    | fifo => exact absurd rfl hr
    | pwmctl | pwmdiv | sta | dmac | rng | fsel => exact List.prefix_rfl

/-- Bus events that queue nothing, with the serializer's periods after each. -/
theorem devRun_drains {p : Params} {us : List Uop} (h : ∀ u ∈ us, ∀ k d, Drains d (storeUop p k d u))
    (ticks : List Nat) (k : Nat) (d : Devices) : Drains d (devRun p us ticks k d) := by
  induction us generalizing ticks k d with
  | nil => exact .refl d
  | cons u us ih =>
    obtain ⟨hu, hus⟩ := List.forall_mem_cons.1 h
    exact ((hu k d).trans (Devices.serialize_drains ..)).trans (ih hus ..)

/-- No store of the configuring phase queues a word (rules R147 to R157). -/
theorem configure_drains (s : State) (h : s.cfg.regmap.wf = true) :
    ∀ u ∈ (configurePhase s.cfg).tail.map fun m => m.uop s, ∀ k d, Drains d (storeUop s.cfg k d u) := by
  have hst {r : Reg} (hr : r ≠ .fifo) (v : Word) (k : Nat) (d : Devices) :
      Drains d (storeUop s.cfg k d (.st r.win (s.cfg.regmap.regField r) v)) := by
    rw [storeUop_reg h]
    exact Devices.store_drains hr ..
  have hwait (t : Interval) (k : Nat) (d : Devices) : Drains d (storeUop s.cfg k d (.wait t)) := .refl d
  have hfsel : ∀ v k d, Drains d (storeUop s.cfg k d (.st .gpio (s.cfg.regmap.regField .fsel) v)) :=
    hst (r := .fsel) (by decide)
  simp [configurePhase, stOp, settleOp, MicroOp.uop, hst, hwait, hfsel]

/-- The configuring phase leaves the peripheral disabled, so that the serializer holds no word (log entry 9). -/
theorem configure_drained (s : State) (h : s.cfg.wf = true) (ticks : List Nat) (k : Nat) {d : Devices}
    (hd : DevicesSound s.cfg d) :
    let e := devRun s.cfg ((configurePhase s.cfg).tail.map fun m => m.uop s) ticks k d
    Drains d e ∧ e.shift = none := by
  intro e
  obtain ⟨-, hctl, -⟩ := configure_devices s h ticks k d
  have hen : e.pEn = false := by injection congrArg (fun x => x.1.head?) hctl
  exact ⟨devRun_drains (configure_drains s (Params.wf_layout h).1) .., (hd.devRun ..).stopped hen⟩

/-! ### The commands past their checks -/

section
variable {s : State}

theorem exec_create_runs {n : BitVec 32} (hs : s.inst = .unconfigured) (hn : n.toNat ≤ s.cfg.capacity) :
    exec (.create n) s = .next (s.acceptCreate n).runCommand :=
  congrArg Host.Outcome.next ((if_neg (not_not.2 hs)).trans (if_neg (Nat.not_lt.2 hn)))

theorem exec_destroy_runs (hs : s.inst = .ready) : exec .destroy s = .next s.acceptDestroy.runCommand :=
  congrArg Host.Outcome.next (if_neg (not_not.2 hs))

end

/-- Settles O14: the state is that of the granted run, its devices those the configuring phase drained. -/
theorem createCompletes : Obligations.CreateCompletes := by
  intro s n hi hs hn hg
  obtain ⟨-, -, hc⟩ := hi.unconfigured hs
  obtain ⟨hconfigured, hshift⟩ := configure_drained { s with fselV := s.loadAt 4 } hi.cfg (s.env.ticks.drop 5)
    (s.env.draws + 5) (hi.sound.serialize (s.periods 5))
  have hdrains := (Devices.serialize_drains s.cfg (s.periods 5) s.dev).trans hconfigured
  refine ⟨_, hdrains.queue, hdrains.line, hshift, ?_⟩
  rw [exec_create_runs hs hn, acceptCreate_granted s n hc hg, ← hi.seq, ← hi.run]

/-- Settles O16: the state is that of the denied run, whose cleanup undoes the requests granted before. -/
theorem deniedCreateCleansUp : Obligations.DeniedCreateCleansUp := by
  intro s n k hi hs hn hk hg hd
  obtain ⟨-, hm, hc⟩ := hi.unconfigured hs
  rw [exec_create_runs hs hn, acceptCreate_denied s n k hc hm hk hg hd, ← hi.seq, ← hi.run]

/-- Settles O19: the state is that of DESTROY's run, which has no store among its events. -/
theorem destroyCompletes : Obligations.DestroyCompletes := by
  intro s hseq hrun hs
  rw [exec_destroy_runs hs, acceptDestroy_run, ← hseq, ← hrun]

/-! ### The divisor fraction -/

/-- `DIVF` is the nearest multiple, a tie going up (rule R152). -/
theorem divf_bounds (f : Nat) : 64 * divf f ≤ f + 32 ∧ f + 32 < 64 * (divf f + 1) := by
  unfold divf
  omega

/-- Settles O46: from the rounding bounds, which also give the values of the topmost half unit. -/
theorem divisorFractionRounds : Obligations.DivisorFractionRounds := by
  refine ⟨fun f hf => ?_, rfl, rfl, rfl, rfl, rfl, fun f hlo hhi => ?_⟩
  · obtain ⟨hbelow, habove⟩ := divf_bounds f
    exact ⟨by omega, hbelow, habove⟩
  · obtain ⟨hbelow, habove⟩ := divf_bounds f
    omega

end Sys2Proof.Machine
end

section
/-! SUPPORT. The pixel commands (rules R171, R173, R175, R176, R181): the next state of each on a valid index, and what
a failed one leaves. -/

namespace Sys2Proof.Machine

/-! ### The commands on a valid index -/

section
variable {s : State} {ix : BitVec 32} (hs : s.inst = .ready) (hix : ix.toNat < s.n.toNat)
include hs hix

theorem exec_setrgb_inside (r g b : BitVec 8) :
    exec (.setrgb ix r g b) s = .next ((s.setPixel ix.toNat ⟨r, g, b⟩).respond 0#24) :=
  congrArg _ (whenAddressable_inside _ hs hix)

theorem exec_setnamed_known {name : BitVec 8} {c : Color} (hc : namedColor s.cfg name = some c) (lum : BitVec 16) :
    exec (.setnamed ix name lum) s = .next ((s.setPixel ix.toNat (lumScale s.cfg c lum)).respond 0#24) :=
  congrArg _ ((whenAddressable_inside _ hs hix).trans (by rw [hc]))

theorem exec_setnamed_unknown {name : BitVec 8} (hc : namedColor s.cfg name = none) (lum : BitVec 16) :
    exec (.setnamed ix name lum) s = .next (s.raise .illegalCommand) :=
  congrArg _ ((whenAddressable_inside _ hs hix).trans (by rw [hc]))

theorem exec_getpix_inside : exec (.getpix ix) s = .next (s.respond (colorData (s.pixel ix.toNat))) :=
  congrArg _ (whenAddressable_inside _ hs hix)

end

/-- Where no command runs, the end of one changes `ERR` and the responses only. -/
theorem State.complete_of_idle {s : State} (hseq : s.seq = Seq.idle) (hrun : s.run = Run.idle) (c : ErrCode)
    (data : BitVec 24) : s.complete c data = { s with err := c.bits, rsp := s.rsp ++ [rspWord c data] } := by
  rw [State.complete, ← hseq, ← hrun]

/-- Every index below `N` has an entry (rules R21, R49). -/
theorem Inv.lt_pix_length {s : State} (h : Inv s) {i : Nat} (hi : i < s.n.toNat) : i < s.pix.length :=
  h.pix_length ▸ hi.trans_le h.n_le

theorem Inv.pix_getElem? {s : State} (h : Inv s) {i : Nat} (hi : i < s.n.toNat) : s.pix[i]? = some (s.pixel i) := by
  have hlen := h.lt_pix_length hi
  rw [State.pixel, List.getD_eq_getElem _ _ hlen, List.getElem?_eq_getElem hlen]

/-- Settles O20: SETRGB writes the entry and responds, and no command runs before or after. -/
theorem setrgbWritesPixel : Obligations.SetrgbWritesPixel := by
  intro s ix r g b hseq hrun hs hix
  rw [exec_setrgb_inside hs hix]
  exact congrArg _ (State.complete_of_idle (s := s.setPixel ..) hseq hrun ..)

/-- Settles O21: by the two answers of the name lookup. -/
theorem setnamedWritesScaledColour : Obligations.SetnamedWritesScaledColour := by
  intro s ix name lum hseq hrun hs hix
  refine ⟨fun c hc => ?_, fun hc => ?_⟩
  · rw [exec_setnamed_known hs hix hc]
    exact congrArg _ (State.complete_of_idle (s := s.setPixel ..) hseq hrun ..)
  · rw [exec_setnamed_unknown hs hix hc]
    exact congrArg _ (State.complete_of_idle hseq hrun ..)

/-- Settles O22: the invariant gives the entry, which GETPIX responds with. -/
theorem getpixAnswersPixel : Obligations.GetpixAnswersPixel := by
  intro s ix hi hs hix
  refine ⟨_, hi.pix_getElem? hix, ?_⟩
  rw [exec_getpix_inside hs hix, State.respond, State.complete_of_idle hi.seq hi.run, rspWord_success]
  rfl

/-- Settles O25: SETRGB keeps the invariant, so that GETPIX answers the entry it wrote. -/
theorem pixelReadsBackAsSet : Obligations.PixelReadsBackAsSet := by
  intro s ix r g b hi hs hix
  have hset : (s.pix.set ix.toNat ⟨r, g, b⟩)[ix.toNat]? = some ⟨r, g, b⟩ :=
    List.getElem?_set_self (hi.lt_pix_length hix)
  obtain ⟨c, hc, hget⟩ := getpixAnswersPixel _ ix ((hi.setPixel ix.toNat ⟨r, g, b⟩).complete .success 0#24) hs hix
  obtain rfl : ⟨r, g, b⟩ = c := Option.some.inj (hset.symm.trans hc)
  exact ⟨_, _, exec_setrgb_inside hs hix r g b, hget, List.append_assoc .., hset,
    fun j hj => List.getElem?_set_ne hj.symm⟩

/-! ### A failed command -/

/-- Settles O26: of the outcomes of a pixel command, an error writes none of the three and the others leave `ERR` 0. -/
theorem failedPixelCommandLeavesBuffer : Obligations.FailedPixelCommandLeavesBuffer := by
  intro s i hform
  have hp : i.port = .cmd := by
    obtain ⟨_, rfl⟩ | ⟨_, _, _, _, rfl⟩ | ⟨_, _, _, rfl⟩ := hform <;> rfl
  obtain ⟨t, ht, ho⟩ := exec_command i s hp
  refine ⟨t, ht, fun herr => ?_⟩
  cases ho with
  | raised _ _ => exact ⟨rfl, rfl, rfl⟩
  | painted _ _ _ _ _ _ | answered _ _ _ => exact absurd rfl herr
  | created n _ _ | shown _ | destroyed _ => simp at hform

end Sys2Proof.Machine
end

section
/-! SUPPORT. The encoder (rules R191 to R207): the stream position by position, the words that spell it, and its number
of 1 bits. -/

namespace Sys2Proof.Machine

/-! ### Words and their number -/

/-- Settles O32: bit by bit, and `31 - (31 - i) = i`. -/
theorem bitReversalIsInvolution : Obligations.BitReversalIsInvolution := by
  refine ⟨fun x i hi => bitrev32_getLsbD x hi, fun x => BitVec.eq_of_getLsbD_eq fun i hi => ?_,
    by decide, by decide, by decide, by decide, by decide⟩
  rw [bitrev32_getLsbD _ hi, bitrev32_getLsbD _ (by omega), show 31 - (31 - i) = i by omega]

/-- `M(N)` words hold the stream, and one word fewer does not (rule R197). -/
theorem wordCount_bounds (n : Nat) : 72 * n ≤ 32 * wordCount n ∧ 32 * wordCount n < 72 * n + 32 := by
  unfold wordCount
  omega

/-- Settles O33: the two bounds determine the ceiling. -/
theorem wordCountIsCeiling : Obligations.WordCountIsCeiling := by
  refine ⟨wordCount_bounds, fun n => ?_, fun pix n => ⟨encodeWave_length pix n, encodeQueue_length pix n⟩,
    by decide⟩
  obtain ⟨hlow, hhigh⟩ := wordCount_bounds n
  omega

/-- A queued word from bit 31 down is a word of `WAVE` from bit 0 up (rules R198, R200). -/
theorem queueWord_getLsbD (pix : List Color) (n w : Nat) {i : Nat} (hi : i < 32) :
    (bitrev32 (waveWord pix n w)).getLsbD (31 - i) =
      (decide (32 * w + i < 72 * n) && streamBit pix (32 * w + i)) := by
  rw [bitrev32_getLsbD _ (by omega), show 31 - (31 - i) = i by omega, waveWord_getLsbD _ _ _ hi, streamLength]

/-- Settles O34: the word is there, and its bits are the stream's. -/
theorem queueSpellsStream : Obligations.QueueSpellsStream := fun pix n w _ hw hi =>
  ⟨_, encodeQueue_getElem? pix n w hw, queueWord_getLsbD pix n w hi⟩

/-! ### The stream -/

section
variable (pix : List Color)

theorem streamBit_of_mod_zero {b : Nat} (h : b % 3 = 0) : streamBit pix b = true := if_pos h

theorem streamBit_of_mod_two {b : Nat} (h : b % 3 = 2) : streamBit pix b = false := by
  rw [streamBit, if_neg (by omega), if_neg (by omega)]

/-- The first, second and third wire-bit of symbol `k` (rules R108, R193). -/
theorem streamBit_first (k : Nat) : streamBit pix (3 * k) = true := streamBit_of_mod_zero pix (by omega)

theorem streamBit_second (k : Nat) : streamBit pix (3 * k + 1) = dataBit pix k := by
  rw [streamBit, if_neg (by omega), if_pos (by omega), show (3 * k + 1) / 3 = k by omega]

theorem streamBit_third (k : Nat) : streamBit pix (3 * k + 2) = false := streamBit_of_mod_two pix (by omega)

/-- Pixel `p`'s data bits are its value from bit 23 down (rule R192). -/
theorem dataBit_pixel (p : Nat) {j : Nat} (hj : j < 24) :
    dataBit pix (24 * p + j) = (pixelValue (pix.getD p Color.zero)).getLsbD (23 - j) := by
  rw [dataBit, show (24 * p + j) / 24 = p by omega, show (24 * p + j) % 24 = j by omega]

/-- Three consecutive wire-bits hold the first and the third of a symbol, which differ (rule R206). -/
theorem streamBit_not_three_equal (b : Nat) :
    ¬ (streamBit pix b = streamBit pix (b + 1) ∧ streamBit pix (b + 1) = streamBit pix (b + 2)) := by
  rintro ⟨h01, h12⟩
  obtain h | h | h : b % 3 = 0 ∨ b % 3 = 1 ∨ b % 3 = 2 := by omega
  · rw [← h01, streamBit_of_mod_zero pix h, streamBit_of_mod_two pix (by omega)] at h12
    cases h12
  · rw [streamBit_of_mod_two pix (by omega), streamBit_of_mod_zero pix (by omega)] at h12
    cases h12
  · rw [streamBit_of_mod_two pix h, streamBit_of_mod_zero pix (by omega)] at h01
    cases h01

end

/-- Rule R191: the green byte is the topmost, then red, then blue. -/
theorem pixelValue_getLsbD (c : Color) {j : Nat} (hj : j < 24) :
    (pixelValue c).getLsbD (23 - j) =
      (if j < 8 then c.g.getLsbD (7 - j) else if j < 16 then c.r.getLsbD (15 - j) else c.b.getLsbD (23 - j)) := by
  simp only [pixelValue, BitVec.getLsbD_append]
  obtain h | h | h : j < 8 ∨ (8 ≤ j ∧ j < 16) ∨ 16 ≤ j := by omega
  · rw [if_neg (by omega), if_neg (by omega), if_pos h, show 23 - j - 8 - 8 = 7 - j by omega]
  · rw [if_neg (by omega), if_pos (by omega), if_neg (by omega), if_pos h.2, show 23 - j - 8 = 15 - j by omega]
  · rw [if_pos (by omega), if_neg (by omega), if_neg (by omega)]

/-- Settles O35: position `72p + 3j` starts the symbol of data bit `24p + j`. -/
theorem streamSerialisesGreenRedBlue : Obligations.StreamSerialisesGreenRedBlue := by
  intro pix p j c hc hj
  rw [show 72 * p + 3 * j = 3 * (24 * p + j) by omega]
  refine ⟨streamBit_first pix _, ?_, streamBit_third pix _⟩
  rw [streamBit_second, dataBit_pixel pix p hj, List.getD_eq_getElem?_getD, hc]
  exact pixelValue_getLsbD c hj

/-- An all-zero buffer has no data bit 1, within its length or past it. -/
theorem dataBit_black (m k : Nat) : dataBit (List.replicate m Color.zero) k = false := by
  have hpix : (List.replicate m Color.zero).getD (k / 24) Color.zero = Color.zero := by
    simp only [List.getD_eq_getElem?_getD, List.getElem?_replicate]
    split_ifs <;> rfl
  rw [dataBit, hpix, show pixelValue Color.zero = 0#24 from rfl, BitVec.getLsbD_zero]

theorem streamBit_black (m b : Nat) : streamBit (List.replicate m Color.zero) b = decide (b % 3 = 0) := by
  rw [streamBit, dataBit_black, ite_self]
  split_ifs with h <;> simp [h]

/-! ### The number of 1 bits -/

/-- Counting over `m` blocks of `k` is summing the counts of the blocks. -/
theorem count_blocks (p : Nat → Prop) [DecidablePred p] (k m : Nat) :
    Nat.count p (k * m) = ((List.range m).map fun j => Nat.count (fun i => p (k * j + i)) k).sum := by
  induction m with
  | zero => simp
  | succ m ih =>
    rw [Nat.mul_succ, Nat.count_add, ih, List.range_succ]
    simp

theorem count_congr {p q : Nat → Prop} [DecidablePred p] [DecidablePred q] {n : Nat} (h : ∀ k < n, p k ↔ q k) :
    Nat.count p n = Nat.count q n :=
  le_antisymm (Nat.count_mono_left fun k hk => (h k hk).1) (Nat.count_mono_left fun k hk => (h k hk).2)

/-- Positions from `a` on that a predicate excludes add nothing to the count. -/
theorem count_truncated (f : Nat → Bool) {a b : Nat} (h : a ≤ b) :
    Nat.count (fun k => decide (k < a) && f k) b = Nat.count (fun k => f k) a := by
  obtain ⟨c, rfl⟩ := Nat.exists_eq_add_of_le h
  rw [Nat.count_add, Nat.count_of_forall_not (n := c) (by simp), Nat.add_zero]
  exact count_congr fun k hk => by simp [hk]

/-- The 1 bits of a word, counted from its top bit down. -/
theorem ones_eq_count_down {w : Nat} (x : BitVec w) : ones x = Nat.count (fun i => x.getLsbD (w - 1 - i)) w := by
  rw [ones, ← List.countP_reverse, List.range_eq_range', List.reverse_range', List.countP_map]
  simp [Nat.count, Function.comp_def]

section
variable (pix : List Color)

theorem ones_pixelValue (p : Nat) :
    ones (pixelValue (pix.getD p Color.zero)) = Nat.count (fun j => dataBit pix (24 * p + j)) 24 := by
  rw [ones_eq_count_down]
  exact count_congr fun j hj => by rw [dataBit_pixel pix p hj]

theorem ones_queueWord (n w : Nat) :
    ones (bitrev32 (waveWord pix n w)) =
      Nat.count (fun i => decide (32 * w + i < 72 * n) && streamBit pix (32 * w + i)) 32 := by
  rw [ones_eq_count_down]
  exact count_congr fun i hi => by rw [← queueWord_getLsbD pix n w hi]

/-- The queued words hold the 1 bits of the stream, the padding adds none (rules R196, R198). -/
theorem ones_encodeQueue (n : Nat) :
    ((encodeQueue pix n).map ones).sum = Nat.count (fun b => streamBit pix b) (72 * n) := by
  calc ((encodeQueue pix n).map ones).sum
      = ((List.range (wordCount n)).map fun w => ones (bitrev32 (waveWord pix n w))).sum := by
        simp only [encodeQueue, encodeWave, List.map_map, Function.comp_def]
    _ = Nat.count (fun b => decide (b < 72 * n) && streamBit pix b) (32 * wordCount n) := by
        simp only [count_blocks, ones_queueWord]
    _ = Nat.count (fun b => streamBit pix b) (72 * n) := count_truncated _ (wordCount_bounds n).1

/-- A symbol has its first wire-bit and its data bit to count (rule R193). -/
theorem count_streamBit (m : Nat) :
    Nat.count (fun b => streamBit pix b) (3 * m) = m + Nat.count (fun k => dataBit pix k) m := by
  induction m with
  | zero => rfl
  | succ m ih =>
    simp only [Nat.mul_succ, Nat.count_succ, ih, streamBit_first, streamBit_second, streamBit_third, if_true,
      Bool.false_eq_true, if_false]
    omega

/-- The data bits of the first `n` pixels are the bits of their values (rule R192). -/
theorem count_dataBit {n : Nat} (hn : n ≤ pix.length) :
    Nat.count (fun k => dataBit pix k) (24 * n) = ((pix.take n).map fun c => ones (pixelValue c)).sum := by
  have htake : pix.take n = (List.range n).map fun p => pix.getD p Color.zero := by
    refine List.ext_getElem (by simpa using hn) fun p hp _ => ?_
    have hlen : p < pix.length := hp.trans_le (List.length_take_le' ..)
    rw [List.getElem_take, List.getElem_map, List.getElem_range, List.getD_eq_getElem _ _ hlen]
  rw [count_blocks, htake, List.map_map]
  simp only [Function.comp_def, ones_pixelValue]

end

/-- Settles O36: the count goes over the stream's symbols, then over the pixels' values. -/
theorem streamInvariants : Obligations.StreamInvariants := by
  refine ⟨fun pix _ => streamBit_of_mod_zero pix, fun pix _ => streamBit_of_mod_two pix, fun pix n hn => ?_,
    streamBit_not_three_equal, streamBit_black⟩
  rw [ones_encodeQueue, show 72 * n = 3 * (24 * n) by omega, count_streamBit, count_dataBit pix hn]

/-- Settles O37: the words of one pixel are evaluated. -/
theorem workedExampleEncodes : Obligations.WorkedExampleEncodes :=
  ⟨by decide, by decide, by decide, by decide⟩

end Sys2Proof.Machine
end

section
/-! SUPPORT. SHOW on an instance (rules R201, R216, R217): the records it appends, which depend on the configuration,
the buffer and `N` alone. -/

namespace Sys2Proof.Machine

/-- The records SHOW appends to the trace (rule R217). -/
def State.showRecords (s : State) : List Record := (showTrace s.cfg (encodeQueue s.pix s.n.toNat)).map encode

theorem exec_showFrame_runs {s : State} (hs : s.inst = .ready) : exec .showFrame s = .next s.acceptShow.runCommand :=
  congrArg Host.Outcome.next (if_neg (not_not.2 hs))

theorem showTrace_length (p : Params) (q : List Word) : (showTrace p q).length = 7 + 2 * q.length := by
  simp +arith [showTrace, List.length_flatMap]

section
variable (s : State)

theorem showRecords_length : s.showRecords.length = 7 + 2 * wordCount s.n.toNat := by
  rw [State.showRecords, List.length_map, showTrace_length, encodeQueue_length]

theorem acceptShow_run_tr : s.acceptShow.runCommand.tr = s.tr ++ s.showRecords := congrArg State.tr (acceptShow_run s)

theorem acceptShow_run_inst : s.acceptShow.runCommand.inst = s.inst := by rw [acceptShow_run]

theorem acceptShow_run_showRecords : s.acceptShow.runCommand.showRecords = s.showRecords := by
  rw [acceptShow_run]
  rfl

end

/-- Settles O31: SHOW keeps the instance, the configuration, the buffer and `N`, so that the second appends the records
of the first. -/
theorem repeatedShowRepeatsTrace : Obligations.RepeatedShowRepeatsTrace := by
  intro s _ hs
  have hready : s.acceptShow.runCommand.inst = .ready := (acceptShow_run_inst s).trans hs
  refine ⟨_, _, s.showRecords, exec_showFrame_runs hs, exec_showFrame_runs hready, acceptShow_run_tr s, ?_,
    showRecords_length s⟩
  rw [acceptShow_run_tr, acceptShow_run_showRecords, acceptShow_run_tr]

end Sys2Proof.Machine
end

section
/-! SUPPORT. SHOW and the devices (rules R216 to R226, R243 to R245): the preamble stops the serializer and clears the
queue and the error flags, the frame's words are queued while it stands still, and the last store enables it. -/

namespace Sys2Proof.Machine

/-- Settles O27: the state is that of SHOW's run, and no command runs before or after. -/
theorem showCompletes : Obligations.ShowCompletes := by
  intro s hseq hrun hs
  refine ⟨s.acceptShow.runCommand.dev, ?_⟩
  rw [exec_showFrame_runs hs, acceptShow_run, ← hseq, ← hrun]

/-! ### The bus events of SHOW -/

/-- A bus event that stores to a register. -/
def stUop (p : Params) (r : Reg) (v : Word) : Uop := .st r.win (p.regmap.regField r) v

/-- T0 to T5: the serializer is stopped, the queue and the error flags are cleared (rules R218, R219, R220). -/
def showPreamble (p : Params) : List Uop :=
  [stUop p .ctl (cfgWord p.regmap), stUop p .ctl (cfgWord p.regmap), .wait .settle,
    stUop p .ctl (cfgClr p.regmap), stUop p .sta p.regmap.errClearAll, .wait .settle]

/-- A store to the queue and a wait for each of the words (rule R221). -/
def queueStores (p : Params) (ws : List Word) : List Uop := ws.flatMap fun v => [stUop p .fifo v, .wait .fifoGap]

/-- The stores of the queue phase are those of the words in `Q`. -/
theorem queuePhase_uops (s : State) :
    ((queuePhase s.q.length).map fun m => m.uop s) = queueStores s.cfg s.q := by
  have hq : (List.range s.q.length).map (fun w => s.q.getD w 0#32) = s.q :=
    List.ext_getElem (by simp) fun w _ hw => by simp [hw]
  conv_rhs => rw [← hq]
  simp only [queueStores, queuePhase, List.flatMap_map, List.map_flatMap]
  rfl

/-- The devices after SHOW: those of the preamble, the queue stores and the enable store. -/
theorem acceptShow_run_dev (s : State) :
    s.acceptShow.runCommand.dev =
      devRun s.cfg (showPreamble s.cfg ++ queueStores s.cfg (encodeQueue s.pix s.n.toNat) ++
        [stUop s.cfg .ctl (cfgEn s.cfg.regmap)]) s.env.ticks s.env.draws s.dev := by
  have hq : ((queuePhase (wordCount s.n.toNat)).map fun m => m.uop s.acceptShow) =
      queueStores s.cfg (encodeQueue s.pix s.n.toNat) := by
    rw [← encodeQueue_length s.pix]
    exact queuePhase_uops s.acceptShow
  rw [acceptShow_run, ← hq]
  simp only [showProgram, List.map_append]
  rfl

/-! ### The preamble -/

theorem Drains.queue_nil {d e : Devices} (g : Drains d e) (h : d.queue = []) : e.queue = [] :=
  List.suffix_nil.1 (h ▸ g.queue)

section
variable {p : Params} (h : p.wf = true)
include h

/-- A store of `CFG_CLR` leaves no word in the queue (rule R244). -/
theorem store_cfgClr_queue (k : Nat) (d : Devices) : (d.store p .ctl (cfgClr p.regmap) k).queue = [] := by
  obtain ⟨-, -, -, -, -, -, hclrf⟩ := ctlw_fields (RegMap.wf_parts (Params.wf_layout h).1).2 false true true false
    false false true
  exact if_pos hclrf

/-- After the preamble the serializer stands still, the queue is empty and no error flag is pending. -/
theorem showPreamble_devices (ticks : List Nat) (k : Nat) (d : Devices) :
    let e := devRun p (showPreamble p) ticks k d
    e.pEn = false ∧ e.queue = [] ∧ e.held .sta = ([], [0]) := by
  intro e
  have hmap := (Params.wf_layout h).1
  have hctl : e.held .ctl = ([false, true, true, false, false, false], []) :=
    devRun_held_store hmap (i := 3) rfl (held_store_ctl h · · ..)
      (by simp [showPreamble, stUop, spares_wait, spares_st hmap]) ..
  refine ⟨by injection congrArg (fun x => x.1.head?) hctl, ?_,
    devRun_held_store hmap (r := .sta) (i := 4) rfl (held_store_sta p) (by simp [showPreamble, spares_wait]) ..⟩
  -- after the clearing store nothing is queued
  have hclear (k : Nat) (d : Devices) : (storeUop p k d (stUop p .ctl (cfgClr p.regmap))).queue = [] := by
    rw [stUop, storeUop_reg hmap, store_cfgClr_queue h]
  have hrest : ∀ u ∈ [stUop p .sta p.regmap.errClearAll, .wait .settle], ∀ k d, Drains d (storeUop p k d u) := by
    simp only [List.forall_mem_cons, stUop, storeUop_reg hmap]
    exact ⟨Devices.store_drains (by decide) _ _, fun _ => Drains.refl, nofun⟩
  exact ((Devices.serialize_drains ..).trans (devRun_drains hrest ..)).queue_nil (hclear ..)

end

/-! ### The queue stores -/

theorem Devices.storeFifo_pEn (p : Params) (v : Word) (k : Nat) (d : Devices) : (d.storeFifo p v k).pEn = d.pEn := by
  unfold Devices.storeFifo
  split <;> rfl

section
variable {p : Params} (h : p.regmap.wf = true)
include h

/-- While the serializer is stopped, a word's store and wait are its store alone (rule R221). -/
theorem devRun_queueStores_cons (v : Word) (ws : List Word) (ticks : List Nat) (k : Nat) {d : Devices}
    (hen : d.pEn = false) :
    devRun p (queueStores p (v :: ws)) ticks k d =
      devRun p (queueStores p ws) ticks.tail.tail (k + 2) (d.storeFifo p v k) := by
  have hstopped : (d.storeFifo p v k).pEn = false := (Devices.storeFifo_pEn ..).trans hen
  have hstore : storeUop p k d (stUop p .fifo v) = d.storeFifo p v k := storeUop_reg h ..
  have hwait (k : Nat) (d : Devices) : storeUop p k d (.wait .fifoGap) = d := rfl
  rw [show queueStores p (v :: ws) = stUop p .fifo v :: .wait .fifoGap :: queueStores p ws from rfl, devRun, devRun,
    hstore, Devices.serialize_stopped _ _ _ hstopped, hwait, Devices.serialize_stopped _ _ _ hstopped]

/-- With the serializer stopped, words that find room join the queue and nothing else changes (rules R221, R243). -/
theorem devRun_queueStores_room (ws : List Word) (ticks : List Nat) (k : Nat) {d : Devices} (hen : d.pEn = false)
    (hroom : d.queue.length + ws.length ≤ p.qdepth) :
    devRun p (queueStores p ws) ticks k d = { d with queue := d.queue ++ ws } := by
  induction ws generalizing ticks k d with
  | nil => simp [queueStores, devRun]
  | cons v ws ih =>
    rw [List.length_cons] at hroom
    rw [devRun_queueStores_cons h v ws ticks k hen, Devices.storeFifo_room p v k (by omega), ih]
    · simp
    · exact hen
    · simp; omega

end

/-! ### The mark of an overflow -/

/-- After an environment fault the serializer moves no more (rule R276). -/
theorem Devices.serialize_faulted (p : Params) (k : Nat) {d : Devices} {f : EnvFault} (h : d.envFault = some f) :
    d.serialize p k = d := by
  induction k with
  | zero => rfl
  | succ k ih => rw [Devices.serialize, show d.tick p = d by simp [Devices.tick, Devices.shifting, h], ih]

theorem Devices.store_overflowed (p : Params) (r : Reg) (v : Word) (k : Nat) {d : Devices}
    (h : d.envFault = some .queueOverflow) : (d.store p r v k).envFault = some .queueOverflow := by
  cases r with
  | fifo =>
    simp only [Devices.store, Devices.storeFifo]
    split
    · exact h
    · rfl
  | pwmctl | pwmdiv | ctl | sta | dmac | rng | fsel => exact h

theorem storeUop_overflowed (p : Params) (k : Nat) (u : Uop) {d : Devices} (h : d.envFault = some .queueOverflow) :
    (storeUop p k d u).envFault = some .queueOverflow := by
  cases u with
  | st w ix v =>
    simp only [storeUop]
    split
    · exact Devices.store_overflowed p _ v k h
    · exact h
  | chopen | map _ | ld _ _ | wait _ | unmap _ | chclose => exact h

/-- A marked run stays marked (rule R276). -/
theorem devRun_overflowed (p : Params) (us : List Uop) (ticks : List Nat) (k : Nat) {d : Devices}
    (h : d.envFault = some .queueOverflow) : (devRun p us ticks k d).envFault = some .queueOverflow := by
  induction us generalizing ticks k d with
  | nil => exact h
  | cons u us ih =>
    have hu := storeUop_overflowed p k u h
    exact ih _ _ (by rw [Devices.serialize_faulted p _ hu, hu])

/-- With the serializer stopped, the first word that finds no room marks the run (rule R243). -/
theorem devRun_queueStores_overflow {p : Params} (h : p.regmap.wf = true) (ws : List Word) (ticks : List Nat) (k : Nat)
    {d : Devices} (hen : d.pEn = false) (hle : d.queue.length ≤ p.qdepth)
    (hover : p.qdepth < d.queue.length + ws.length) :
    (devRun p (queueStores p ws) ticks k d).envFault = some .queueOverflow := by
  induction ws generalizing ticks k d with
  | nil => exact absurd hle (Nat.not_le.2 hover)
  | cons v ws ih =>
    rw [List.length_cons] at hover
    rw [devRun_queueStores_cons h v ws ticks k hen]
    obtain hroom | hfull := Nat.lt_or_ge d.queue.length p.qdepth
    · rw [Devices.storeFifo_room p v k hroom]
      exact ih _ _ hen (by simpa using hroom) (by simp; omega)
    · rw [Devices.storeFifo_full p v k hfull]
      exact devRun_overflowed p _ _ _ rfl

/-! ### The devices after SHOW -/

/-- The enable store leaves the peripheral enabled (rule R222). -/
theorem acceptShow_run_pEn {s : State} (h : s.cfg.wf = true) : s.acceptShow.runCommand.dev.pEn = true := by
  have hctl : s.acceptShow.runCommand.dev.held .ctl = ([true, true, true, false, false, false], []) := by
    rw [acceptShow_run_dev, devRun_append, devRun, devRun, Devices.held_serialize, stUop,
      storeUop_reg (Params.wf_layout h).1]
    exact held_store_ctl h ..
  injection congrArg (fun x => x.1.head?) hctl

/-- A frame that fits the queue leaves no error flag: no store after the clearing of the flags overflows. -/
theorem acceptShow_run_pErr {s : State} (h : s.cfg.wf = true) (hfit : wordCount s.n.toNat ≤ s.cfg.qdepth) :
    s.acceptShow.runCommand.dev.pErr = 0#32 := by
  have hmap := (Params.wf_layout h).1
  obtain ⟨hen, hq, hsta⟩ := showPreamble_devices h s.env.ticks s.env.draws s.dev
  have henable : ∀ u ∈ [stUop s.cfg .ctl (cfgEn s.cfg.regmap)], Spares s.cfg .sta u := by
    simp [stUop, spares_st hmap]
  have herr : s.acceptShow.runCommand.dev.held .sta = ([], [0]) := by
    rw [acceptShow_run_dev, devRun_append, devRun_append, devRun_held henable,
      devRun_queueStores_room hmap _ _ _ hen (by simpa [hq] using hfit)]
    exact hsta
  have hzero : s.acceptShow.runCommand.dev.pErr.toNat = 0 := by injection congrArg (fun x => x.2.head?) herr
  exact BitVec.eq_of_toNat_eq hzero

/-- A frame longer than the queue marks the run: the preamble leaves the queue empty, and the stores fill it. -/
theorem acceptShow_run_overflow {s : State} (h : s.cfg.wf = true) (hover : s.cfg.qdepth < wordCount s.n.toNat) :
    s.acceptShow.runCommand.dev.envFault = some .queueOverflow := by
  obtain ⟨hen, hq, -⟩ := showPreamble_devices h s.env.ticks s.env.draws s.dev
  rw [acceptShow_run_dev, devRun_append, devRun_append]
  exact devRun_overflowed _ _ _ _ (devRun_queueStores_overflow (Params.wf_layout h).1 _ _ _ hen (by simp [hq])
    (by simpa [hq] using hover))

/-- Settles O29: SHOW keeps the configuration, its last store enables, and a frame that fits sets no flag. -/
theorem showLeavesPeripheralEnabled : Obligations.ShowLeavesPeripheralEnabled := by
  intro s hi hs
  have hconf : DevicesConfigured s.cfg s.acceptShow.runCommand.dev := by
    rw [acceptShow_run]
    exact show_devices s.acceptShow hi.cfg _ _ _ (hi.devices hs)
  exact ⟨_, exec_showFrame_runs hs, acceptShow_run_pEn hi.cfg, hconf, acceptShow_run_pErr hi.cfg⟩

/-- Settles O30: the response is that of every SHOW, and the queue overflows. -/
theorem overlongFrameMarksTheRun : Obligations.OverlongFrameMarksTheRun := by
  intro s hi hs hover
  refine ⟨_, exec_showFrame_runs hs, ?_, ?_, acceptShow_run_overflow hi.cfg hover⟩ <;> rw [acceptShow_run]

end Sys2Proof.Machine
end

section
/-! SUPPORT. The peripherals' contract (rules R243 to R248, R251, R252): a store of the micro-programs whole, and one
period of a serializer whose wire carries the bit itself. -/

namespace Sys2Proof.Machine

/-! ### Stores -/

/-- Settles O49: `storeFifo_room` and `storeFifo_full` are the two cases. -/
theorem queueStoreAppendsOrMarks : Obligations.QueueStoreAppendsOrMarks := fun p _ v k =>
  ⟨Devices.storeFifo_room p v k, fun hfull => ⟨_, Devices.storeFifo_full p v k hfull⟩⟩

section
variable {p : Params} (h : p.wf = true) (k : Nat) (d : Devices)
include h

/-- The clock is stopped, and the source stays selected (rules R38, R251). -/
theorem store_pwmctl_kill :
    d.store p .pwmctl (clkctl p.regmap true false 0) k = { d with clkRun := false } := by
  obtain ⟨hkill, henable, -⟩ :=
    clkctl_fields (RegMap.wf_parts (Params.wf_layout h).1).1 true false (Nat.two_pow_pos _)
  simp [Devices.store, Devices.storePwmctl_of_bits hkill henable]

/-- The clock is started from the configured source (rules R107, R251). -/
theorem store_pwmctl_start :
    d.store p .pwmctl (clkctl p.regmap false true p.clkSrc) k = { d with clkRun := true, clkSel := p.clkSrc } := by
  obtain ⟨hmap, -, -, hsrc⟩ := Params.wf_layout h
  obtain ⟨hkill, henable, hread⟩ := clkctl_fields (RegMap.wf_parts hmap).1 false true hsrc
  simp [Devices.store, Devices.storePwmctl_of_bits hkill henable, hread]

theorem store_pwmdiv_programmed :
    d.store p .pwmdiv (clkdiv p.regmap p.divInt (divf p.divFrac16)) k =
      { d with clkDiv1024 := 1024 * p.divInt + divf p.divFrac16 } := by
  obtain ⟨hmap, hdiv, hfrac, -⟩ := Params.wf_layout h
  have hclk := (RegMap.wf_parts hmap).1
  obtain ⟨hint, hdivf⟩ := clkdiv_fields hclk hdiv (divf_lt hfrac hclk.divf_wide)
  simp [Devices.store, Devices.storePwmdiv, hint, hdivf]

theorem store_fsel_fselw (v : Word) :
    d.store p .fsel (fselw p.regmap v) k = { d with pinFunc := p.regmap.altPwm } := by
  simp [Devices.store, fselw_field (RegMap.wf_parts (Params.wf_layout h).1).2]

/-- A store to `CTL` whole (rule R244): only one that takes `en` from 1 to 0 reaches the word on its way and the wire
(log entry 9). -/
theorem store_ctl_ctlw (en mode usef rptl pola sbit clrf : Bool) :
    d.store p .ctl (ctlw p.regmap en mode usef rptl pola sbit clrf) k = { d with
      pEn := en, pMode := mode, pUsef := usef, pRptl := rptl, pPola := pola, pSbit := sbit
      queue := if clrf then [] else d.queue
      line := if en then d.line else d.lineAtStop
      shift := if d.pEn && !en then none else d.shift
      pos := if d.pEn && !en then 0 else d.pos } := by
  obtain ⟨hen, hmode, husef, hrptl, hpola, hsbit, hclrf⟩ :=
    ctlw_fields (RegMap.wf_parts (Params.wf_layout h).1).2 en mode usef rptl pola sbit clrf
  simp only [Devices.store, Devices.storeCtl, hen, hmode, husef, hrptl, hpola, hsbit, hclrf]
  cases en <;> simp [Devices.lineAtStop]

end

theorem store_dmac_off (p : Params) (k : Nat) (d : Devices) :
    d.store p .dmac (dmacw p.regmap false) k = { d with pDma := false } := by
  simp [Devices.store, dmacw, bitAt]

theorem store_sta_clearAll (p : Params) (k : Nat) (d : Devices) :
    d.store p .sta p.regmap.errClearAll k = { d with pErr := 0#32 } := by
  simp [Devices.store, Devices.storeSta]

/-- What the bits `kill` and `enable` of any stored word do to the clock (rules R38, R67, R251; log entry 16). -/
theorem store_pwmctl_bits (p : Params) (k : Nat) (d : Devices) (v : Word) :
    (v.getLsbD p.regmap.killPos = true → (d.store p .pwmctl v k).clkRun = false) ∧
    (v.getLsbD p.regmap.killPos = false → v.getLsbD p.regmap.enablePos = true →
      (d.store p .pwmctl v k).clkRun = true) ∧
    (v.getLsbD p.regmap.enablePos = true →
      (d.store p .pwmctl v k).clkSel = readField p.regmap.srcPos p.regmap.srcW v) := by
  refine ⟨fun hkill => ?_, fun hkill henable => ?_, fun henable => ?_⟩
  · simp [Devices.store, Devices.storePwmctl_of_bits hkill rfl]
  · simp [Devices.store, Devices.storePwmctl_of_bits hkill henable]
  · simp [Devices.store, Devices.storePwmctl_of_bits rfl henable]

/-- Settles O48: each programmed store whole, the two bits of `PWMCTL`, and what each register's store writes. -/
theorem programmedStoresTakeEffect : Obligations.ProgrammedStoresTakeEffect := fun p d k h =>
  ⟨store_pwmctl_kill h k d, store_pwmdiv_programmed h k d, store_pwmctl_start h k d, store_dmac_off p k d, rfl,
    store_sta_clearAll p k d, store_ctl_ctlw h k d, store_fsel_fselw h k d, store_pwmctl_bits p k d, fun v =>
      ⟨⟨_, _, rfl⟩, ⟨_, rfl⟩, ⟨_, rfl⟩, ⟨_, rfl⟩, ⟨_, rfl⟩, rfl, ⟨d.store p .ctl v k, rfl⟩⟩⟩

/-! ### One wire-bit period -/

/-- A running serializer whose wire carries the bit itself and that repeats no word: normal polarity, repeat off, the
pin on the PWM function. -/
structure PlainWire (p : Params) (d : Devices) : Prop where
  shifting : d.shifting = true
  pola : d.pPola = false
  rptl : d.pRptl = false
  pin : d.pinFunc = p.regmap.altPwm

theorem Devices.midWord_iff (d : Devices) : d.midWord = true ↔ (∃ v, d.shift = some v) ∧ d.pos ≠ d.pRng := by
  simp [Devices.midWord, Option.isSome_iff_exists]

theorem Devices.midWord_eq_false {d : Devices} (h : d.shift = none ∨ d.pos = d.pRng) : d.midWord = false := by
  obtain h | h := h <;> simp [Devices.midWord, h]

section
variable {p : Params} {d : Devices} (h : PlainWire p d)
include h

theorem PlainWire.wireItem (b : Bool) : d.wireItem p b = .bit b := by
  simp [Devices.wireItem, h.pola, h.pin]

/-- The run of a serializer that moves is not marked (rule R276). -/
theorem PlainWire.envFault : d.envFault = none := by
  have hshift := h.shifting
  simp only [Devices.shifting, Bool.and_eq_true, Option.isNone_iff_eq_none] at hshift
  exact hshift.2

theorem PlainWire.sendBit {v : Word} (hpos : d.pos < 32) :
    d.sendBit p v = { d with line := d.line ++ [.bit (v.getLsbD (31 - d.pos))], pos := d.pos + 1 } := by
  simp [Devices.sendBit, hpos, h.wireItem]

/-- A word in progress sends its next bit (rule R247). -/
theorem PlainWire.tick_midWord {v : Word} (hv : d.shift = some v) (hmid : d.pos ≠ d.pRng) (hpos : d.pos < 32) :
    d.tick p = { d with line := d.line ++ [.bit (v.getLsbD (31 - d.pos))], pos := d.pos + 1 } := by
  rw [← h.sendBit hpos, Devices.tick, if_pos h.shifting, d.midWord_iff.2 ⟨⟨v, hv⟩, hmid⟩, hv]

/-- With no word in progress the queue's head is taken and sends its bit 31 (rule R247). -/
theorem PlainWire.tick_nextWord {v : Word} {rest : List Word} (hend : d.shift = none ∨ d.pos = d.pRng)
    (hq : d.queue = v :: rest) :
    d.tick p = { d with
      shift := some v, pos := 1, queue := rest, line := d.line ++ [.bit (v.getLsbD 31)] } := by
  have htaken : PlainWire p { d with shift := some v, pos := 0, queue := rest } := ⟨h.shifting, h.pola, h.rptl, h.pin⟩
  rw [Devices.tick, if_pos h.shifting, Devices.midWord_eq_false hend, hq]
  exact htaken.sendBit (show 0 < 32 by decide)

/-- With nothing to send the wire carries the padding bit (rule R248). -/
theorem PlainWire.tick_idle (hend : d.shift = none ∨ d.pos = d.pRng) (hq : d.queue = []) :
    d.tick p = { d with line := d.line ++ [.bit d.pSbit] } := by
  rw [Devices.tick, if_pos h.shifting, Devices.midWord_eq_false hend, hq]
  simp [Devices.sendIdle, h.rptl, h.wireItem, hq]

end

/-- Settles O51: a stopped serializer, and the three cases of a running one. -/
theorem serializerStepFollowsQueue : Obligations.SerializerStepFollowsQueue := fun p d =>
  ⟨Devices.tick_stopped p d, fun hshift hpola hrptl hpin =>
    have h : PlainWire p d := ⟨hshift, hpola, hrptl, hpin⟩
    ⟨fun _ => h.tick_midWord, fun _ _ => h.tick_nextWord, h.tick_idle⟩⟩

end Sys2Proof.Machine
end

section
/-! SUPPORT. The frame on the line (rules R217, R247 to R249): the bits a running serializer has yet to send, which its
periods put on the line one by one, and the devices SHOW starts it with. -/

namespace Sys2Proof.Machine

/-! ### The bits to come -/

/-- Bit `b` of the words on the wire, each from bit 31 down, then 0. -/
def queueBit (ws : List Word) (b : Nat) : Bool := (ws.getD (b / 32) 0#32).getLsbD (31 - b % 32)

theorem queueBit_nil (b : Nat) : queueBit [] b = false := by simp [queueBit]

theorem queueBit_cons_lt (v : Word) (ws : List Word) {b : Nat} (hb : b < 32) :
    queueBit (v :: ws) b = v.getLsbD (31 - b) := by
  simp [queueBit, Nat.div_eq_of_lt hb, Nat.mod_eq_of_lt hb]

theorem queueBit_cons_add (v : Word) (ws : List Word) (b : Nat) : queueBit (v :: ws) (32 + b) = queueBit ws b := by
  simp [queueBit, show (32 + b) / 32 = b / 32 + 1 by omega]

/-- The queued words of a frame put its stream on the wire, then their padding (rule R200). -/
theorem queueBit_encodeQueue (pix : List Color) (n b : Nat) :
    queueBit (encodeQueue pix n) b = (decide (b < streamLength n) && streamBit pix b) := by
  obtain hw | hw := Nat.lt_or_ge (b / 32) (wordCount n)
  · rw [queueBit, List.getD_eq_getElem?_getD, encodeQueue_getElem? pix n _ hw, Option.getD_some,
      queueWord_getLsbD pix n _ (Nat.mod_lt b (by decide)), Nat.div_add_mod, streamLength]
  · have hpast : ¬ b < streamLength n := by
      have := (wordCount_bounds n).1
      unfold streamLength
      omega
    simp [queueBit, List.getElem?_eq_none ((encodeQueue_length pix n).trans_le hw), hpast]

/-- Bit `i` of those the serializer has yet to send: the rest of its word and the queue's words, then 0. -/
def Devices.pendingBit (d : Devices) (i : Nat) : Bool :=
  match d.shift with
  | some v => queueBit (v :: d.queue) (d.pos + i)
  | none => queueBit d.queue i

theorem Devices.pendingBit_some {d : Devices} {v : Word} (hv : d.shift = some v) (i : Nat) :
    d.pendingBit i = queueBit (v :: d.queue) (d.pos + i) := by
  simp only [Devices.pendingBit, hv]

/-- With no word in progress the bits to come are those of the queue. -/
theorem Devices.pendingBit_of_end {d : Devices} (hend : d.shift = none ∨ d.pos = 32) (i : Nat) :
    d.pendingBit i = queueBit d.queue i := by
  cases hv : d.shift with
  | none => simp only [Devices.pendingBit, hv]
  | some v =>
    have hpos : d.pos = 32 := hend.resolve_left (by simp [hv])
    rw [d.pendingBit_some hv, hpos, queueBit_cons_add]

/-- A serializer that runs as SHOW starts it: whole words of 32 bits, the padding bit 0. -/
structure Transmits (p : Params) (d : Devices) : Prop extends PlainWire p d where
  rng : d.pRng = 32
  sbit : d.pSbit = false
  pos_le : d.shift = none ∨ d.pos ≤ 32

/-- One period moves the first of the bits to come to the line. -/
theorem Transmits.tick {p : Params} {d : Devices} (h : Transmits p d) :
    Transmits p (d.tick p) ∧ (d.tick p).line = d.line ++ [.bit (d.pendingBit 0)] ∧
      ∀ i, (d.tick p).pendingBit i = d.pendingBit (i + 1) := by
  have ⟨⟨hshift, hpola, hrptl, hpin⟩, hrng, hsbit, hle⟩ := h
  by_cases hend : d.shift = none ∨ d.pos = 32
  · have hpend := Devices.pendingBit_of_end hend
    cases hq : d.queue with
    | nil =>
      rw [h.tick_idle (hrng ▸ hend) hq]
      refine ⟨⟨⟨hshift, hpola, hrptl, hpin⟩, hrng, hsbit, hle⟩, ?_, fun i => ?_⟩
      · simp only [hpend, hq, queueBit_nil, hsbit]
      · change d.pendingBit i = d.pendingBit (i + 1)
        rw [hpend, hpend, hq, queueBit_nil, queueBit_nil]
    | cons v rest =>
      rw [h.tick_nextWord (hrng ▸ hend) hq]
      refine ⟨⟨⟨hshift, hpola, hrptl, hpin⟩, hrng, hsbit, .inr (show 1 ≤ 32 by decide)⟩, ?_, fun i => ?_⟩
      · simp only [hpend, hq, queueBit_cons_lt v rest (show 0 < 32 by decide)]
      · rw [Devices.pendingBit_some rfl, hpend, hq, Nat.add_comm i]
  · obtain ⟨hv, hpos⟩ := not_or.1 hend
    obtain ⟨v, hv⟩ := Option.ne_none_iff_exists'.1 hv
    have hlt : d.pos < 32 := by have := hle.resolve_left (by simp [hv]); omega
    rw [h.tick_midWord hv (hrng ▸ hpos) hlt]
    refine ⟨⟨⟨hshift, hpola, hrptl, hpin⟩, hrng, hsbit, .inr hlt⟩, ?_, fun i => ?_⟩
    · simp only [Devices.pendingBit_some hv, Nat.add_zero, queueBit_cons_lt v _ hlt]
    · refine (Devices.pendingBit_some (d := { d with line := _, pos := d.pos + 1 }) hv i).trans ?_
      rw [Devices.pendingBit_some hv, Nat.add_left_comm, Nat.add_comm i]

/-- `k` periods put the first `k` bits to come on the line, in order and without a gap (rule R249). -/
theorem Transmits.serialize {p : Params} (k : Nat) {d : Devices} (h : Transmits p d) :
    Transmits p (d.serialize p k) ∧
      (d.serialize p k).line = d.line ++ (List.range k).map fun i => .bit (d.pendingBit i) := by
  induction k generalizing d with
  | zero => exact ⟨h, by simp⟩
  | succ k ih =>
    obtain ⟨htick, hline, hpend⟩ := h.tick
    obtain ⟨hk, hlinek⟩ := ih htick
    refine ⟨hk, ?_⟩
    rw [Devices.serialize, hlinek, hline, List.range_succ_eq_map]
    simp [hpend, Function.comp_def]

/-! ### The devices SHOW starts the serializer with -/

/-- The devices after a store of `CFGWORD`: the serializer stands still (rules R107, R218). -/
def Devices.halted (d : Devices) : Devices :=
  { d with
    pEn := false, pMode := true, pUsef := true, pRptl := false, pPola := false, pSbit := false
    line := d.lineAtStop
    shift := if d.pEn then none else d.shift
    pos := if d.pEn then 0 else d.pos }

theorem Devices.halted_halted (d : Devices) : d.halted.halted = d.halted := by
  simp [Devices.halted, Devices.lineAtStop]

/-- The devices when SHOW has enabled the serializer on the words `ws`. -/
def Devices.loaded (d : Devices) (ws : List Word) : Devices :=
  { d.halted with pEn := true, queue := ws, pErr := 0#32 }

section
variable {p : Params} (h : p.wf = true)
include h

theorem store_cfgWord (k : Nat) (d : Devices) : d.store p .ctl (cfgWord p.regmap) k = d.halted := by
  rw [cfgWord, store_ctl_ctlw h]
  simp [Devices.halted]

theorem store_cfgClr (k : Nat) (d : Devices) :
    d.store p .ctl (cfgClr p.regmap) k = { d.halted with queue := [] } := by
  rw [cfgClr, store_ctl_ctlw h]
  simp [Devices.halted]

theorem store_cfgEn (k : Nat) (d : Devices) (ws : List Word) :
    { d.halted with queue := ws, pErr := 0#32 }.store p .ctl (cfgEn p.regmap) k = d.loaded ws := by
  rw [cfgEn, store_ctl_ctlw h]
  simp [Devices.halted, Devices.loaded]

/-- The preamble: its first store halts the serializer, and no later period moves it (rules R218 to R220). -/
theorem devRun_showPreamble (ticks : List Nat) (k : Nat) (d : Devices) :
    devRun p (showPreamble p) ticks k d = { d.halted with queue := [], pErr := 0#32 } := by
  have hmap := (Params.wf_layout h).1
  have hwait (k : Nat) (d : Devices) : storeUop p k d (.wait .settle) = d := rfl
  have hstopped (k : Nat) (ws : List Word) (err : Word) :
      { d.halted with queue := ws, pErr := err }.serialize p k = { d.halted with queue := ws, pErr := err } :=
    Devices.serialize_stopped p k _ rfl
  have hhalted (k : Nat) : d.halted.serialize p k = d.halted := Devices.serialize_stopped p k _ rfl
  simp only [showPreamble, stUop, devRun, storeUop_reg hmap, hwait, store_cfgWord h, store_cfgClr h,
    store_sta_clearAll, Devices.halted_halted, hhalted, hstopped]

end

theorem queueStores_length (p : Params) (ws : List Word) : (queueStores p ws).length = 2 * ws.length := by
  simp [queueStores, List.length_flatMap, Nat.mul_comm]

/-- With a frame that fits the queue, SHOW loads its words and enables the serializer, and then the periods after the
last store pass (rules R217, R222). -/
theorem acceptShow_run_loaded {s : State} (h : s.cfg.wf = true) (hfit : wordCount s.n.toNat ≤ s.cfg.qdepth) :
    s.acceptShow.runCommand.dev = (s.dev.loaded (encodeQueue s.pix s.n.toNat)).serialize s.cfg
      ((s.env.ticks.drop (6 + 2 * wordCount s.n.toNat)).headD 0) := by
  rw [acceptShow_run_dev, devRun_append, devRun_append, devRun_showPreamble h,
    devRun_queueStores_room (Params.wf_layout h).1 _ _ _ rfl (by simpa using hfit), List.nil_append, devRun, devRun,
    stUop, storeUop_reg (Params.wf_layout h).1, store_cfgEn h]
  rw [List.length_append, queueStores_length, encodeQueue_length]
  rfl

/-- A loaded serializer holds no word: the halt drops the one on its way, and a stopped one holds none (log entry 9). -/
theorem Devices.loaded_shift {d : Devices} (hstop : d.pEn = false → d.shift = none) (ws : List Word) :
    (d.loaded ws).shift = none := by
  change (if d.pEn then none else d.shift) = none
  split
  next => rfl
  next hen => exact hstop (Bool.eq_false_iff.2 hen)

/-- Once loaded, configured devices transmit, unless the run is marked (rules R51, R247, R276). -/
theorem DevicesConfigured.loaded_transmits {p : Params} {d : Devices} (h : DevicesConfigured p d)
    (hstop : d.pEn = false → d.shift = none) (hsound : d.envFault = none) (ws : List Word) :
    Transmits p (d.loaded ws) := by
  refine ⟨⟨?_, rfl, rfl, h.pin⟩, h.rng, rfl, .inl (Devices.loaded_shift hstop ws)⟩
  simp [Devices.shifting, Devices.loaded, Devices.halted, h.clkRun, hsound]

/-- Settles O28: SHOW loads the frame's words, and every period after its last store sends the next of their bits. -/
theorem showPutsStreamOnTheLine : Obligations.ShowPutsStreamOnTheLine := by
  intro s hi hs hfit hsound
  have hloaded := acceptShow_run_loaded hi.cfg hfit
  have hsend (k : Nat) := ((hi.devices hs).loaded_transmits hi.stopped hsound
    (encodeQueue s.pix s.n.toNat)).serialize k
  refine ⟨_, exec_showFrame_runs hs, ?_, fun j => ?_⟩
  · rw [WireSound, hloaded]
    exact (hsend _).1.envFault
  · have hcfg : s.acceptShow.runCommand.cfg = s.cfg := runToIdle_cfg ..
    rw [hcfg, hloaded, ← Devices.serialize_add, (hsend _).2]
    have hpend (i : Nat) : (s.dev.loaded (encodeQueue s.pix s.n.toNat)).pendingBit i =
        (decide (i < streamLength s.n.toNat) && streamBit s.pix i) :=
      (Devices.pendingBit_of_end (.inl (Devices.loaded_shift hi.stopped _)) i).trans (queueBit_encodeQueue ..)
    simp only [hpend]
    rfl

end Sys2Proof.Machine
end

section
/-! SUPPORT. The errors of the commands (rules R265 to R272): which check a command fails first, what it then leaves,
and that no step stops. -/

namespace Sys2Proof.Machine

/-- Settles O12: between commands a step lets the serializer's periods pass, reports an illegal word or runs a command,
and every command answers a next state. -/
theorem noReachableStepStops : Obligations.NoReachableStepStops := by
  intro s hi
  have hp : s.seq.phase = .idle := by rw [hi.seq]; rfl
  cases hc : s.cmdPort with
  | nil => exact ⟨_, step_waits hp hc⟩
  | cons w rest =>
    cases hw : decodeCmd w with
    | error e => exact ⟨_, step_illegal hp hc hw⟩
    | ok i =>
      obtain ⟨t, ht, -⟩ := exec_command i { s.elapse with cmdPort := rest } (decodeCmd_port hw)
      exact ⟨t, (step_runs hp hc hw).trans ht⟩

/-! ### The check of `STATE` (rules R142, R174, R270) -/

section
variable {s : State}

theorem exec_create_ready (n : BitVec 32) (hs : s.inst = .ready) : exec (.create n) s = .next (s.raise .state) :=
  congrArg _ (if_pos (by rw [hs]; nofun))

/-- Without an instance only CREATE is accepted. -/
theorem exec_unconfigured {i : Instr} (hp : i.port = .cmd) (hi : ∀ n, i ≠ .create n) (hs : s.inst = .unconfigured) :
    exec i s = .next (s.raise .state) := by
  have hnot : s.inst ≠ .ready := by rw [hs]; nofun
  cases i with
  | create n => exact absurd rfl (hi n)
  | setrgb ix _ _ _ | setnamed ix _ _ | getpix ix => exact congrArg _ (whenAddressable_notReady ix _ hnot)
  | showFrame | destroy => exact congrArg _ (if_pos hnot)
  | chopen | map _ | ld _ _ | st _ _ _ | wait _ | unmap _ | chclose => cases hp

end

/-- Settles O18: the two refusals, and no command runs before or after. -/
theorem wrongLifeCycleRaisesStateError : Obligations.WrongLifeCycleRaisesStateError := by
  intro s i hseq hrun hform
  have hrefused : exec i s = .next (s.raise .state) := by
    obtain ⟨hs, n, rfl⟩ | ⟨hs, hform⟩ := hform
    · exact exec_create_ready n hs
    · obtain rfl | rfl | ⟨_, rfl⟩ | ⟨_, _, _, _, rfl⟩ | ⟨_, _, _, rfl⟩ := hform
      all_goals exact exec_unconfigured rfl nofun hs
  rw [hrefused]
  exact congrArg _ (State.complete_of_idle hseq hrun ..)

/-! ### The count of CREATE and its requests (rules R142, R150, R267) -/

section
variable {s : State} (h : Inv s) (hs : s.inst = .unconfigured) (n : BitVec 32)
include h hs

theorem Inv.create_err_granted (hg : ∀ k < 4, s.grantAt k = true) : (s.acceptCreate n).runCommand.err = 0#4 := by
  obtain ⟨-, -, hc⟩ := h.unconfigured hs
  rw [acceptCreate_granted s n hc hg]

theorem Inv.create_err_denied (hd : ∃ k < 4, s.grantAt k = false) : (s.acceptCreate n).runCommand.err = 3#4 := by
  obtain ⟨-, hm, hc⟩ := h.unconfigured hs
  obtain hg | ⟨k, hk, hg, hfirst⟩ := s.grants_cases
  · obtain ⟨k, hk, hd⟩ := hd
    exact absurd (hg k hk) (by simp [hd])
  · rw [acceptCreate_denied s n k hc hm hk hg hfirst]

/-- CREATE past its checks does not report `ConfigurationError`. -/
theorem Inv.create_err_ne_configuration : (s.acceptCreate n).runCommand.err ≠ ErrCode.configuration.bits := by
  obtain hg | ⟨k, hk, -, hd⟩ := s.grants_cases
  · rw [h.create_err_granted hs n hg]; decide
  · rw [h.create_err_denied hs n ⟨k, hk, hd⟩]; decide

end

/-- Settles O17: the two checks of CREATE in their order, and behind them only a denied request is reported. -/
theorem oversizedCreateRaisesConfigurationError : Obligations.OversizedCreateRaisesConfigurationError := by
  intro s n hi
  constructor
  · cases hs : s.inst with
    | ready => exact ⟨_, exec_create_ready n hs, iff_of_false (show 4#4 ≠ 1#4 by decide) (by simp)⟩
    | unconfigured =>
      by_cases hn : s.cfg.capacity < n.toNat
      · exact ⟨_, exec_create_oversized hs hn, iff_of_true rfl ⟨rfl, hn⟩⟩
      · exact ⟨_, exec_create_runs hs (Nat.not_lt.1 hn),
          iff_of_false (hi.create_err_ne_configuration hs n) fun hall => hn hall.2⟩
  · intro hs hn
    rw [exec_create_oversized hs hn]
    exact congrArg _ (State.complete_of_idle hi.seq hi.run ..)

/-! ### The index of the pixel commands (rules R172, R176, R268) -/

/-- On an instance the index check comes before everything `body` reports. -/
theorem whenAddressable_err {s : State} (hs : s.inst = .ready) (ix : BitVec 32) (body : State) :
    (s.whenAddressable ix body).err = if ix.toNat < s.n.toNat then body.err else 2#4 := by
  split_ifs with hix
  · rw [whenAddressable_inside _ hs hix]
  · rw [whenAddressable_outside _ hs hix]
    rfl

section
variable {s t : State} {ix : BitVec 32}

theorem exec_getpix_err (h : exec (.getpix ix) s = .next t) (hs : s.inst = .ready) :
    t.err = if ix.toNat < s.n.toNat then 0#4 else 2#4 := by
  cases h
  exact whenAddressable_err hs ix _

theorem exec_setrgb_err {r g b : BitVec 8} (h : exec (.setrgb ix r g b) s = .next t) (hs : s.inst = .ready) :
    t.err = if ix.toNat < s.n.toNat then 0#4 else 2#4 := by
  cases h
  exact whenAddressable_err hs ix _

/-- SETNAMED looks its name up once the index is valid. -/
theorem exec_setnamed_err {name : BitVec 8} {lum : BitVec 16} (h : exec (.setnamed ix name lum) s = .next t)
    (hs : s.inst = .ready) :
    t.err = if ix.toNat < s.n.toNat then (if namedColor s.cfg name = none then 5#4 else 0#4) else 2#4 := by
  cases h
  rw [whenAddressable_err hs]
  cases namedColor s.cfg name <;> rfl

/-- On an instance the index check is the only source of the code 2. -/
theorem exec_indexed_err_eq_two_iff {i : Instr} (hi : i = .getpix ix ∨ (∃ r g b, i = .setrgb ix r g b) ∨
    (∃ name lum, i = .setnamed ix name lum)) (h : exec i s = .next t) (hs : s.inst = .ready) :
    t.err = 2#4 ↔ ¬ ix.toNat < s.n.toNat := by
  obtain rfl | ⟨r, g, b, rfl⟩ | ⟨name, lum, rfl⟩ := hi
  · simp [exec_getpix_err h hs]
  · simp [exec_setrgb_err h hs]
  · cases hc : namedColor s.cfg name <;> simp [exec_setnamed_err h hs, hc]

end

/-- Settles O23: without an instance the state check comes first, and on one the index check decides. -/
theorem invalidIndexRaisesIndexError : Obligations.InvalidIndexRaisesIndexError := by
  intro s ix i hseq hrun hform
  obtain ⟨hp, hi⟩ : i.port = .cmd ∧ ∀ n, i ≠ .create n := by
    obtain rfl | ⟨_, _, _, rfl⟩ | ⟨_, _, rfl⟩ := hform
    all_goals exact ⟨rfl, nofun⟩
  constructor
  · cases hs : s.inst with
    | unconfigured => exact ⟨_, exec_unconfigured hp hi hs, iff_of_false (show 4#4 ≠ 2#4 by decide) nofun⟩
    | ready =>
      obtain ⟨t, ht, -⟩ := exec_command i s hp
      exact ⟨t, ht, (exec_indexed_err_eq_two_iff hform ht hs).trans (and_iff_right rfl).symm⟩
  · intro hs hix
    rw [exec_indexed_outside hform hs hix]
    exact congrArg _ (State.complete_of_idle hseq hrun ..)

/-! ### The first failed check (rule R272) -/

/-- A command reports one error. -/
theorem err_eq_of_next {i : Instr} {s t u : State} (ht : exec i s = .next t) (hu : exec i s = .next u) :
    t.err = u.err := by
  cases ht.symm.trans hu
  rfl

/-- Settles O55: the word is illegal, or its command runs where only the serializer's periods have passed since, and
there each check has its lemma. -/
theorem firstFailedCheckIsReported : Obligations.FirstFailedCheckIsReported := by
  intro s w rest hi hport
  have hp : s.seq.phase = .idle := by rw [hi.seq]; rfl
  obtain ⟨t, ht⟩ := noReachableStepStops s hi
  refine ⟨t, ht, fun ⟨e, he⟩ => ?_, fun i hw => ?_⟩
  · cases (step_illegal hp hport he).symm.trans ht
    rfl
  have hi' := hi.elapse rest
  have hexec := (step_runs hp hport hw).symm.trans ht
  refine ⟨?_, fun hs hn => ?_, ?_, ?_, ?_, ?_⟩
  · rintro hs ⟨n, rfl⟩
    exact err_eq_of_next hexec (exec_create_ready n hs)
  · exact err_eq_of_next hexec (exec_unconfigured (decodeCmd_port hw) hn hs)
  · rintro n hs rfl
    refine ⟨fun hn => err_eq_of_next hexec (exec_create_oversized hs hn), fun hn hd => ?_, fun hn hg => ?_⟩
    · exact (err_eq_of_next hexec (exec_create_runs hs hn)).trans (hi'.create_err_denied hs n hd)
    · exact (err_eq_of_next hexec (exec_create_runs hs hn)).trans (hi'.create_err_granted hs n hg)
  · rintro ix hs (rfl | ⟨r, g, b, rfl⟩)
    · exact (exec_getpix_err hexec hs :)
    · exact (exec_setrgb_err hexec hs :)
  · rintro ix name lum hs rfl
    exact (exec_setnamed_err hexec hs :)
  · rintro hs (rfl | rfl)
    · rw [err_eq_of_next hexec (exec_showFrame_runs hs), acceptShow_run]
    · rw [err_eq_of_next hexec (exec_destroy_runs hs), acceptDestroy_run]

end Sys2Proof.Machine
end

section
/-! SUPPORT. The life cycle and the waits of a command (rules R305, R319): when a command makes an instance or ends one,
and how long its trace waits. -/

namespace Sys2Proof.Machine

/-! ### The life cycle (rule R305) -/

section
variable {s t : State} {i : Instr}

/-- Without an instance, the command that makes one is a CREATE without an error. -/
theorem Inv.exec_makes_ready_iff (h : Inv s) (hs : s.inst = .unconfigured) (hp : i.port = .cmd)
    (ht : exec i s = .next t) : t.inst = .ready ↔ (∃ n, i = .create n) ∧ t.err = 0#4 := by
  have hnot : s.inst ≠ .ready := by rw [hs]; nofun
  by_cases hi : ∃ n, i = .create n
  · obtain ⟨n, rfl⟩ := hi
    by_cases hn : s.cfg.capacity < n.toNat
    · cases (exec_create_oversized hs hn).symm.trans ht
      exact iff_of_false hnot fun hok => absurd hok.2 (show 1#4 ≠ 0#4 by decide)
    · cases (exec_create_runs hs (Nat.not_lt.1 hn)).symm.trans ht
      obtain ⟨-, hm, hc⟩ := h.unconfigured hs
      obtain hg | ⟨k, hk, hg, hd⟩ := s.grants_cases
      · rw [acceptCreate_granted s n hc hg]
        exact iff_of_true rfl ⟨⟨n, rfl⟩, rfl⟩
      · rw [acceptCreate_denied s n k hc hm hk hg hd]
        exact iff_of_false hnot fun hok => absurd hok.2 (show 3#4 ≠ 0#4 by decide)
  · cases (exec_unconfigured hp (not_exists.1 hi) hs).symm.trans ht
    exact iff_of_false hnot fun hok => hi hok.1

/-- Only DESTROY ends an instance, and it always does. -/
theorem exec_ends_ready_iff (ht : exec i s = .next t) (hs : s.inst = .ready) :
    t.inst = .unconfigured ↔ i = .destroy := by
  have hnot : s.inst ≠ .unconfigured := by rw [hs]; nofun
  by_cases hdestroy : i = .destroy
  · subst hdestroy
    cases (exec_destroy_runs hs).symm.trans ht
    rw [acceptDestroy_run]
    exact iff_of_true rfl rfl
  refine iff_of_false ?_ hdestroy
  by_cases hcreate : ∃ n, i = .create n
  · obtain ⟨n, rfl⟩ := hcreate
    cases (exec_create_ready n hs).symm.trans ht
    exact hnot
  · obtain ⟨-, hinst⟩ := onlyCreateAndDestroyChangeLifeCycle s t i ht (not_exists.1 hcreate) hdestroy
    rwa [hinst]

end

/-- Settles O56: an illegal word leaves `STATE` as it is, and a command runs where only the serializer's periods have
passed since. -/
theorem lifeCycleFollowsTable : Obligations.LifeCycleFollowsTable := by
  intro s w rest hi hport
  have hp : s.seq.phase = .idle := by rw [hi.seq]; rfl
  obtain ⟨t, ht⟩ := noReachableStepStops s hi
  refine ⟨t, ht, ?_⟩
  cases hw : decodeCmd w with
  | error e =>
    cases (step_illegal hp hport hw).symm.trans ht
    exact ⟨fun hs => iff_of_false (by simp [hs]) (by simp), fun hs => iff_of_false (by simp [hs]) nofun⟩
  | ok i =>
    have hexec := (step_runs hp hport hw).symm.trans ht
    simp only [Except.ok.injEq]
    exact ⟨fun hs => (hi.elapse rest).exec_makes_ready_iff hs (decodeCmd_port hw) hexec,
      fun hs => exec_ends_ready_iff hexec hs⟩

/-! ### The waits of a trace (rules R126, R319) -/

section
variable (p : Params)

theorem waitTime_encode {i : Instr} (h : i.port = .uop) : waitTime p (encode i) =
    (if i = .wait .settle then p.tSettle else 0) + (if i = .wait .fifoGap then p.tFifoGap else 0) := by
  obtain ⟨u, rfl⟩ := exists_uop_of_port h
  rw [waitTime, decodeUop_encode]
  cases u with
  | wait t => cases t <;> simp [Uop.toInstr]
  | chopen | map _ | ld _ _ | st _ _ _ | unmap _ | chclose => rfl

/-- A trace of bus events takes its settle intervals and its queue gaps. -/
theorem traceTime_encode {is : List Instr} (h : ∀ i ∈ is, i.port = .uop) : traceTime p (is.map encode) =
    is.count (.wait .settle) * p.tSettle + is.count (.wait .fifoGap) * p.tFifoGap := by
  induction is with
  | nil => simp [traceTime]
  | cons i is ih =>
    obtain ⟨hi, his⟩ := List.forall_mem_cons.1 h
    have hcons : traceTime p ((i :: is).map encode) = waitTime p (encode i) + traceTime p (is.map encode) := by
      simp [traceTime]
    rw [hcons, waitTime_encode p hi, ih his]
    simp only [List.count_cons, beq_iff_eq, add_mul, ite_mul, one_mul, zero_mul]
    omega

theorem traceTime_createTrace (v : Word) : traceTime p ((createTrace p v).map encode) = 7 * p.tSettle := by
  rw [traceTime_encode p (by simp [createTrace, stInstr, Instr.port])]
  simp [createTrace, stInstr]

theorem traceTime_showTrace (q : List Word) :
    traceTime p ((showTrace p q).map encode) = 2 * p.tSettle + q.length * p.tFifoGap := by
  rw [traceTime_encode p (by simp +contextual [showTrace, stInstr, Instr.port, or_imp])]
  simp [showTrace, stInstr, List.count_flatMap, Function.comp_def]

theorem traceTime_destroyTrace : traceTime p (destroyTrace.map encode) = 0 := by
  rw [traceTime_encode p (by simp [destroyTrace, Instr.port])]
  simp [destroyTrace]

end

/-- The pixel commands issue no bus event. -/
theorem exec_pixel_tr (s : State) {i : Instr}
    (hform : (∃ ix, i = .getpix ix) ∨ (∃ ix r g b, i = .setrgb ix r g b) ∨
      (∃ ix name lum, i = .setnamed ix name lum)) : ∃ t, exec i s = .next t ∧ t.tr = s.tr := by
  have hp : i.port = .cmd := by
    obtain ⟨_, rfl⟩ | ⟨_, _, _, _, rfl⟩ | ⟨_, _, _, rfl⟩ := hform <;> rfl
  obtain ⟨t, ht, ho⟩ := exec_command i s hp
  refine ⟨t, ht, ?_⟩
  cases ho with
  | raised _ _ | painted _ _ _ _ _ _ | answered _ _ _ => rfl
  | created n _ _ | shown _ | destroyed _ => simp at hform

/-- Settles O60: the waits are those of the trace each micro-program leaves. -/
theorem waitsBoundCommandTime : Obligations.WaitsBoundCommandTime := by
  refine ⟨fun s n hi hs hn hg => ?_, fun s _ hs => ⟨?_, ?_⟩, fun s i hform => exec_pixel_tr s hform⟩
  · obtain ⟨-, -, hc⟩ := hi.unconfigured hs
    exact ⟨_, _, exec_create_runs hs hn, hi.create_err_granted hs n hg,
      congrArg State.tr (acceptCreate_granted s n hc hg), traceTime_createTrace ..⟩
  · refine ⟨_, _, exec_showFrame_runs hs, acceptShow_run_tr s, ?_⟩
    rw [State.showRecords, traceTime_showTrace, encodeQueue_length]
  · exact ⟨_, _, exec_destroy_runs hs, congrArg State.tr (acceptDestroy_run s), traceTime_destroyTrace _⟩

end Sys2Proof.Machine
end
